-- ==== Sys2Proof/Word.lean ====
section
/-! DEFINITION. The two word types of EGB-CORE (00_scope.md R7: XLEN8, XLEN16; R13). -/

namespace Sys2Proof

/-- A byte: 8 bits, the width of A, F, B, C, D, E, H, L and of every bus datum (R7, R13). -/
abbrev Byte := BitVec 8

/-- A word: 16 bits, the width of SP, PC, the pairs and every address (R7, R13). -/
abbrev Word := BitVec 16

end Sys2Proof
end

