-- ==== Sys2Proof/Syntax.lean ====
section
/-! DEFINITION. The instructions of EGB-CORE: one constructor for each row of spec/opcode_table.json
(30_encoding.md R155). Operands are the fields of the rows; a selector that cannot be (HL) is a `Reg8`. -/

namespace Sys2Proof

/-- The 8-bit registers an instruction can name: the selectors other than 6 (10_state.md R20). -/
inductive Reg8 where
  | b | c | d | e | h | l | a
deriving DecidableEq, Repr

/-- The 16-bit operands of table `rp` (30_encoding.md R150). -/
inductive Reg16 where
  | bc | de | hl | sp
deriving DecidableEq, Repr

/-- The 16-bit operands of table `rp2` but for AF, which has rows of its own (30_encoding.md R150). -/
inductive StackPair where
  | bc | de | hl
deriving DecidableEq, Repr

/-- The conditions `cc` (30_encoding.md R150, 44_control.md R290). -/
inductive Cond where
  | nz | z | nc | c
deriving DecidableEq, Repr

/-- The instructions. Each constructor's comment gives its row's name in the spec and its rule. -/
inductive Instr where
  -- 40_load8.md and the rest of block 0x40 to 0x7F
  | ldRR (dst src : Reg8)          -- LD r,r'        R200
  | ldRHl (dst : Reg8)             -- LD r,(HL)      R201
  | ldHlR (src : Reg8)             -- LD (HL),r      R202
  | halt                           -- HALT           R321
  -- 41_alu8.md: the accumulator operations
  | addR (src : Reg8)              -- ADD A,r        R231
  | addHl                          -- ADD A,(HL)     R232
  | addN (n : Byte)                -- ADD A,n8       R233
  | adcR (src : Reg8)              -- ADC A,r        R234
  | adcHl                          -- ADC A,(HL)     R235
  | adcN (n : Byte)                -- ADC A,n8       R236
  | subR (src : Reg8)              -- SUB A,r        R237
  | subHl                          -- SUB A,(HL)     R238
  | subN (n : Byte)                -- SUB A,n8       R239
  | sbcR (src : Reg8)              -- SBC A,r        R240
  | sbcHl                          -- SBC A,(HL)     R241
  | sbcN (n : Byte)                -- SBC A,n8       R242
  | andR (src : Reg8)              -- AND A,r        R243
  | andHl                          -- AND A,(HL)     R244
  | andN (n : Byte)                -- AND A,n8       R245
  | xorR (src : Reg8)              -- XOR A,r        R246
  | xorHl                          -- XOR A,(HL)     R247
  | xorN (n : Byte)                -- XOR A,n8       R248
  | orR (src : Reg8)               -- OR A,r         R249
  | orHl                           -- OR A,(HL)      R250
  | orN (n : Byte)                 -- OR A,n8        R251
  | cpR (src : Reg8)               -- CP A,r         R252
  | cpHl                           -- CP A,(HL)      R253
  | cpN (n : Byte)                 -- CP A,n8        R254
  -- rows 0 to 3 of the base page
  | nop                            -- NOP            R320
  | ldA16Sp (a : Word)             -- LD (a16),SP    R262
  | stop (n : Byte)                -- STOP           R322
  | jrE (e : Byte)                 -- JR e8          R294
  | jrCc (cc : Cond) (e : Byte)    -- JR cc,e8       R295
  | ldRrN16 (rr : Reg16) (n : Word) -- LD rr,n16     R261
  | addHlRr (rr : Reg16)           -- ADD HL,rr      R280
  | ldBcA                          -- LD (BC),A      R207
  | ldDeA                          -- LD (DE),A      R208
  | ldHlIncA                       -- LD (HL+),A     R211
  | ldHlDecA                       -- LD (HL-),A     R212
  | ldABc                          -- LD A,(BC)      R205
  | ldADe                          -- LD A,(DE)      R206
  | ldAHlInc                       -- LD A,(HL+)     R209
  | ldAHlDec                       -- LD A,(HL-)     R210
  | incRr (rr : Reg16)             -- INC rr         R281
  | decRr (rr : Reg16)             -- DEC rr         R282
  | incR (r : Reg8)                -- INC r          R255
  | incHl                          -- INC (HL)       R256
  | decR (r : Reg8)                -- DEC r          R257
  | decHl                          -- DEC (HL)       R258
  | ldRN (r : Reg8) (n : Byte)     -- LD r,n8        R203
  | ldHlN (n : Byte)               -- LD (HL),n8     R204
  | rlca                           -- RLCA           R329
  | rrca                           -- RRCA           R331
  | rla                            -- RLA            R330
  | rra                            -- RRA            R332
  | daa                            -- DAA            R325
  | cpl                            -- CPL            R326
  | scf                            -- SCF            R327
  | ccf                            -- CCF            R328
  -- rows C to F of the base page
  | retCc (cc : Cond)              -- RET cc         R299
  | ldhA8A (n : Byte)              -- LDH (a8),A     R213
  | addSpE (e : Byte)              -- ADD SP,e8      R283
  | ldhAA8 (n : Byte)              -- LDH A,(a8)     R214
  | ldHlSpE (e : Byte)             -- LD HL,SP+e8    R264
  | popRr (rr : StackPair)         -- POP rr         R267
  | popAf                          -- POP AF         R268
  | ret                            -- RET            R298
  | reti                           -- RETI           R300
  | jpHl                           -- JP HL          R293
  | ldSpHl                         -- LD SP,HL       R263
  | jpCc (cc : Cond) (a : Word)    -- JP cc,a16      R292
  | ldhCA                          -- LDH (C),A      R215
  | ldA16A (a : Word)              -- LD (a16),A     R217
  | ldhAC                          -- LDH A,(C)      R216
  | ldAA16 (a : Word)              -- LD A,(a16)     R218
  | jpA16 (a : Word)               -- JP a16         R291
  | prefixCb (op2 : Byte)          -- PREFIX CB      R146
  | di                             -- DI             R323
  | ei                             -- EI             R324
  | callCc (cc : Cond) (a : Word)  -- CALL cc,a16    R297
  | pushRr (rr : StackPair)        -- PUSH rr        R265
  | pushAf                         -- PUSH AF        R266
  | callA16 (a : Word)             -- CALL a16       R296
  | rst (t : BitVec 3)             -- RST vec        R301
  -- the eleven invalid opcodes
  | invalidD3                      -- INVALID 0xD3   R333
  | invalidDB                      -- INVALID 0xDB   R333
  | invalidDD                      -- INVALID 0xDD   R333
  | invalidE3                      -- INVALID 0xE3   R333
  | invalidE4                      -- INVALID 0xE4   R333
  | invalidEB                      -- INVALID 0xEB   R333
  | invalidEC                      -- INVALID 0xEC   R333
  | invalidED                      -- INVALID 0xED   R333
  | invalidF4                      -- INVALID 0xF4   R333
  | invalidFC                      -- INVALID 0xFC   R333
  | invalidFD                      -- INVALID 0xFD   R333
  -- the CB page
  | rlcR (r : Reg8)                -- RLC r          R351
  | rlcHl                          -- RLC (HL)       R352
  | rrcR (r : Reg8)                -- RRC r          R353
  | rrcHl                          -- RRC (HL)       R354
  | rlR (r : Reg8)                 -- RL r           R355
  | rlHl                           -- RL (HL)        R356
  | rrR (r : Reg8)                 -- RR r           R357
  | rrHl                           -- RR (HL)        R358
  | slaR (r : Reg8)                -- SLA r          R359
  | slaHl                          -- SLA (HL)       R360
  | sraR (r : Reg8)                -- SRA r          R361
  | sraHl                          -- SRA (HL)       R362
  | swapR (r : Reg8)               -- SWAP r         R363
  | swapHl                         -- SWAP (HL)      R364
  | srlR (r : Reg8)                -- SRL r          R365
  | srlHl                          -- SRL (HL)       R366
  | bitR (b : BitVec 3) (r : Reg8) -- BIT b,r        R367
  | bitHl (b : BitVec 3)           -- BIT b,(HL)     R368
  | resR (b : BitVec 3) (r : Reg8) -- RES b,r        R369
  | resHl (b : BitVec 3)           -- RES b,(HL)     R370
  | setR (b : BitVec 3) (r : Reg8) -- SET b,r        R371
  | setHl (b : BitVec 3)           -- SET b,(HL)     R372
deriving DecidableEq, Repr

end Sys2Proof
end

