-- ==== Sys2Proof/Decode.lean ====
section
/-! DEFINITION. Decoding (30_encoding.md R140 to R155) and, after it, the encoder. -/

namespace Sys2Proof

/-! ### Selector tables (R150) -/

/-- The 8-bit selector; 6, the pseudo-register (HL), answers none (10_state.md R20). -/
def Reg8.ofCode (z : BitVec 3) : Option Reg8 :=
  match z.toNat with
  | 0 => some .b
  | 1 => some .c
  | 2 => some .d
  | 3 => some .e
  | 4 => some .h
  | 5 => some .l
  | 6 => none
  | _ => some .a

/-- Table `rp`. -/
def Reg16.ofCode (p : BitVec 2) : Reg16 :=
  match p.toNat with
  | 0 => .bc
  | 1 => .de
  | 2 => .hl
  | _ => .sp

/-- Table `rp2`; 3, the pair AF, answers none. -/
def StackPair.ofCode (p : BitVec 2) : Option StackPair :=
  match p.toNat with
  | 0 => some .bc
  | 1 => some .de
  | 2 => some .hl
  | _ => none

/-- The condition table. -/
def Cond.ofCode (cc : BitVec 2) : Cond :=
  match cc.toNat with
  | 0 => .nz
  | 1 => .z
  | 2 => .nc
  | _ => .c

/-- A 16-bit immediate from its two bytes, low byte first (R147). -/
def immWord (b1 b2 : Byte) : Word := b2 ++ b1

/-! ### Lengths (R140) -/

/-- The opcodes of length 3. -/
def threeByteOpcodes : List Byte :=
  [0x01#8, 0x08#8, 0x11#8, 0x21#8, 0x31#8, 0xC2#8, 0xC3#8, 0xC4#8, 0xCA#8, 0xCC#8, 0xCD#8,
   0xD2#8, 0xD4#8, 0xDA#8, 0xDC#8, 0xEA#8, 0xFA#8]

/-- The opcodes of length 2, the prefix 0xCB among them. -/
def twoByteOpcodes : List Byte :=
  [0x06#8, 0x0E#8, 0x10#8, 0x16#8, 0x18#8, 0x1E#8, 0x20#8, 0x26#8, 0x28#8, 0x2E#8, 0x30#8, 0x36#8, 0x38#8, 0x3E#8,
   0xC6#8, 0xCB#8, 0xCE#8, 0xD6#8, 0xDE#8, 0xE0#8, 0xE6#8, 0xE8#8, 0xEE#8, 0xF0#8, 0xF6#8, 0xF8#8, 0xFE#8]

/-- The number of bytes fetched for an opcode: the table of R140, and 1 for an invalid opcode, which faults after
the fetch of `op`. -/
def lengthOf (op : Byte) : Nat :=
  if threeByteOpcodes.contains op then 3 else if twoByteOpcodes.contains op then 2 else 1

/-! ### The base page (R148, R149, R151), by the fields x, y, z of R141 -/

/-- Block x = 0. -/
def decodeBlock0 (y z : BitVec 3) (b1 b2 : Byte) : Instr :=
  let p : BitVec 2 := y.extractLsb' 1 2
  let q : Bool := y.getLsbD 0
  match z.toNat with
  | 0 =>
    match y.toNat with
    | 0 => .nop
    | 1 => .ldA16Sp (immWord b1 b2)
    | 2 => .stop b1
    | 3 => .jrE b1
    | _ => .jrCc (Cond.ofCode (y.extractLsb' 0 2)) b1
  | 1 => if q then .addHlRr (Reg16.ofCode p) else .ldRrN16 (Reg16.ofCode p) (immWord b1 b2)
  | 2 =>
    match y.toNat with
    | 0 => .ldBcA
    | 1 => .ldABc
    | 2 => .ldDeA
    | 3 => .ldADe
    | 4 => .ldHlIncA
    | 5 => .ldAHlInc
    | 6 => .ldHlDecA
    | _ => .ldAHlDec
  | 3 => if q then .decRr (Reg16.ofCode p) else .incRr (Reg16.ofCode p)
  | 4 =>
    match Reg8.ofCode y with
    | some r => .incR r
    | none => .incHl
  | 5 =>
    match Reg8.ofCode y with
    | some r => .decR r
    | none => .decHl
  | 6 =>
    match Reg8.ofCode y with
    | some r => .ldRN r b1
    | none => .ldHlN b1
  | _ =>
    match y.toNat with
    | 0 => .rlca
    | 1 => .rrca
    | 2 => .rla
    | 3 => .rra
    | 4 => .daa
    | 5 => .cpl
    | 6 => .scf
    | _ => .ccf

/-- Block x = 1: the loads and HALT (R148). -/
def decodeBlock1 (y z : BitVec 3) : Instr :=
  match Reg8.ofCode y, Reg8.ofCode z with
  | some dst, some src => .ldRR dst src
  | some dst, none => .ldRHl dst
  | none, some src => .ldHlR src
  | none, none => .halt

/-- Block x = 2: the accumulator operations against a selector (R149). -/
def decodeBlock2 (y z : BitVec 3) : Instr :=
  match y.toNat, Reg8.ofCode z with
  | 0, some r => .addR r
  | 0, none => .addHl
  | 1, some r => .adcR r
  | 1, none => .adcHl
  | 2, some r => .subR r
  | 2, none => .subHl
  | 3, some r => .sbcR r
  | 3, none => .sbcHl
  | 4, some r => .andR r
  | 4, none => .andHl
  | 5, some r => .xorR r
  | 5, none => .xorHl
  | 6, some r => .orR r
  | 6, none => .orHl
  | _, some r => .cpR r
  | _, none => .cpHl

/-- The accumulator operations against an immediate: block x = 3, z = 6. -/
def decodeAluImm (y : BitVec 3) (n : Byte) : Instr :=
  match y.toNat with
  | 0 => .addN n
  | 1 => .adcN n
  | 2 => .subN n
  | 3 => .sbcN n
  | 4 => .andN n
  | 5 => .xorN n
  | 6 => .orN n
  | _ => .cpN n

/-- Block x = 3, with the eleven invalid opcodes of R153. -/
def decodeBlock3 (y z : BitVec 3) (b1 b2 : Byte) : Instr :=
  let p : BitVec 2 := y.extractLsb' 1 2
  let q : Bool := y.getLsbD 0
  let cc : Cond := Cond.ofCode (y.extractLsb' 0 2)
  match z.toNat with
  | 0 =>
    match y.toNat with
    | 4 => .ldhA8A b1
    | 5 => .addSpE b1
    | 6 => .ldhAA8 b1
    | 7 => .ldHlSpE b1
    | _ => .retCc cc
  | 1 =>
    if q then
      match p.toNat with
      | 0 => .ret
      | 1 => .reti
      | 2 => .jpHl
      | _ => .ldSpHl
    else
      match StackPair.ofCode p with
      | some rr => .popRr rr
      | none => .popAf
  | 2 =>
    match y.toNat with
    | 4 => .ldhCA
    | 5 => .ldA16A (immWord b1 b2)
    | 6 => .ldhAC
    | 7 => .ldAA16 (immWord b1 b2)
    | _ => .jpCc cc (immWord b1 b2)
  | 3 =>
    match y.toNat with
    | 0 => .jpA16 (immWord b1 b2)
    | 1 => .prefixCb b1
    | 2 => .invalidD3
    | 3 => .invalidDB
    | 4 => .invalidE3
    | 5 => .invalidEB
    | 6 => .di
    | _ => .ei
  | 4 =>
    match y.toNat with
    | 4 => .invalidE4
    | 5 => .invalidEC
    | 6 => .invalidF4
    | 7 => .invalidFC
    | _ => .callCc cc (immWord b1 b2)
  | 5 =>
    if q then
      match p.toNat with
      | 0 => .callA16 (immWord b1 b2)
      | 1 => .invalidDD
      | 2 => .invalidED
      | _ => .invalidFD
    else
      match StackPair.ofCode p with
      | some rr => .pushRr rr
      | none => .pushAf
  | 6 => decodeAluImm y b1
  | _ => .rst y

/-- The base page: the row that byte 0 selects. -/
def decodeBase (op b1 b2 : Byte) : Instr :=
  let x : BitVec 2 := op.extractLsb' 6 2
  let y : BitVec 3 := op.extractLsb' 3 3
  let z : BitVec 3 := op.extractLsb' 0 3
  match x.toNat with
  | 0 => decodeBlock0 y z b1 b2
  | 1 => decodeBlock1 y z
  | 2 => decodeBlock2 y z
  | _ => decodeBlock3 y z b1 b2

/-! ### The CB page (R152) -/

/-- The rotates and shifts, `op2` = `00 yyy zzz`. -/
def decodeRot (y z : BitVec 3) : Instr :=
  match y.toNat, Reg8.ofCode z with
  | 0, some r => .rlcR r
  | 0, none => .rlcHl
  | 1, some r => .rrcR r
  | 1, none => .rrcHl
  | 2, some r => .rlR r
  | 2, none => .rlHl
  | 3, some r => .rrR r
  | 3, none => .rrHl
  | 4, some r => .slaR r
  | 4, none => .slaHl
  | 5, some r => .sraR r
  | 5, none => .sraHl
  | 6, some r => .swapR r
  | 6, none => .swapHl
  | _, some r => .srlR r
  | _, none => .srlHl

/-- The CB page: the row that `op2` selects; all 256 values are defined. -/
def decodeCb (op2 : Byte) : Instr :=
  let x : BitVec 2 := op2.extractLsb' 6 2
  let y : BitVec 3 := op2.extractLsb' 3 3
  let z : BitVec 3 := op2.extractLsb' 0 3
  match x.toNat, Reg8.ofCode z with
  | 0, _ => decodeRot y z
  | 1, some r => .bitR y r
  | 1, none => .bitHl y
  | 2, some r => .resR y r
  | 2, none => .resHl y
  | _, some r => .setR y r
  | _, none => .setHl y

/-! ### Whole instructions -/

/-- The instruction of three fetched bytes, of which only the first `lengthOf op` matter (R143): the prefix is
resolved to the CB-page row of its second byte (R146). -/
def decodeOp (op b1 b2 : Byte) : Instr :=
  match decodeBase op b1 b2 with
  | .prefixCb op2 => decodeCb op2
  | i => i

/-- Why bytes are no instruction. Every opcode byte selects a row (R154, R155), so only missing bytes are refused. -/
inductive DecodeError where
  | noBytes                     -- the list is empty
  | truncated (op : Byte)       -- fewer bytes than the opcode's length asks for
deriving DecidableEq, Repr

/-- Decoding: the instruction at the front of a list of bytes, and the bytes after it. -/
def decode : List Byte → Except DecodeError (Instr × List Byte)
  | [] => .error .noBytes
  | op :: rest =>
    match lengthOf op, rest with
    | 1, _ => .ok (decodeOp op 0#8 0#8, rest)
    | 2, b1 :: rest' => .ok (decodeOp op b1 0#8, rest')
    | 2, [] => .error (.truncated op)
    | _, b1 :: b2 :: rest' => .ok (decodeOp op b1 b2, rest')
    | _, _ => .error (.truncated op)

/-! ### The encoder, from the same tables -/

/-- The 3-bit selector of a register (10_state.md R20). -/
def Reg8.code : Reg8 → BitVec 3
  | .b => 0#3
  | .c => 1#3
  | .d => 2#3
  | .e => 3#3
  | .h => 4#3
  | .l => 5#3
  | .a => 7#3

/-- The 2-bit selector of table `rp`. -/
def Reg16.code : Reg16 → BitVec 2
  | .bc => 0#2
  | .de => 1#2
  | .hl => 2#2
  | .sp => 3#2

/-- The 2-bit selector of table `rp2`. -/
def StackPair.code : StackPair → BitVec 2
  | .bc => 0#2
  | .de => 1#2
  | .hl => 2#2

/-- The 2-bit condition. -/
def Cond.code : Cond → BitVec 2
  | .nz => 0#2
  | .z => 1#2
  | .nc => 2#2
  | .c => 3#2

/-- The low byte of a word. -/
def loByte (w : Word) : Byte := w.extractLsb' 0 8

/-- The high byte of a word. -/
def hiByte (w : Word) : Byte := w.extractLsb' 8 8

/-- `01 ddd sss` (R141, format R_R). -/
def opRR (d s : BitVec 3) : Byte := 0b01#2 ++ d ++ s

/-- `10 ooo sss` (format ALU_R). -/
def opAlu (o s : BitVec 3) : Byte := 0b10#2 ++ o ++ s

/-- `00 yyy zzz`. -/
def opBlock0 (y z : BitVec 3) : Byte := 0b00#2 ++ y ++ z

/-- `11 yyy zzz`. -/
def opBlock3 (y z : BitVec 3) : Byte := 0b11#2 ++ y ++ z

/-- `00 pp low` with a fixed low nibble (format RR). -/
def opPair0 (p : BitVec 2) (low : BitVec 4) : Byte := 0b00#2 ++ p ++ low

/-- `11 pp low` with a fixed low nibble (format RR). -/
def opPair3 (p : BitVec 2) (low : BitVec 4) : Byte := 0b11#2 ++ p ++ low

/-- `110 cc low` (format COND and the conditional IMM16 forms). -/
def opCond (cc : BitVec 2) (low : BitVec 3) : Byte := 0b110#3 ++ cc ++ low

/-- The second byte `xx bbb rrr` of a bit operation (format CB_BIT). -/
def opBit (x : BitVec 2) (b r : BitVec 3) : Byte := x ++ b ++ r

/-- The bytes of an instruction, opcode first (R141, R147, R151, R152). -/
def encode : Instr → List Byte
  | .ldRR dst src => [opRR dst.code src.code]
  | .ldRHl dst => [opRR dst.code 6#3]
  | .ldHlR src => [opRR 6#3 src.code]
  | .halt => [0x76#8]
  | .addR r => [opAlu 0#3 r.code]
  | .addHl => [opAlu 0#3 6#3]
  | .addN n => [0xC6#8, n]
  | .adcR r => [opAlu 1#3 r.code]
  | .adcHl => [opAlu 1#3 6#3]
  | .adcN n => [0xCE#8, n]
  | .subR r => [opAlu 2#3 r.code]
  | .subHl => [opAlu 2#3 6#3]
  | .subN n => [0xD6#8, n]
  | .sbcR r => [opAlu 3#3 r.code]
  | .sbcHl => [opAlu 3#3 6#3]
  | .sbcN n => [0xDE#8, n]
  | .andR r => [opAlu 4#3 r.code]
  | .andHl => [opAlu 4#3 6#3]
  | .andN n => [0xE6#8, n]
  | .xorR r => [opAlu 5#3 r.code]
  | .xorHl => [opAlu 5#3 6#3]
  | .xorN n => [0xEE#8, n]
  | .orR r => [opAlu 6#3 r.code]
  | .orHl => [opAlu 6#3 6#3]
  | .orN n => [0xF6#8, n]
  | .cpR r => [opAlu 7#3 r.code]
  | .cpHl => [opAlu 7#3 6#3]
  | .cpN n => [0xFE#8, n]
  | .nop => [0x00#8]
  | .ldA16Sp a => [0x08#8, loByte a, hiByte a]
  | .stop n => [0x10#8, n]
  | .jrE e => [0x18#8, e]
  | .jrCc cc e => [0b001#3 ++ cc.code ++ 0b000#3, e]
  | .ldRrN16 rr n => [opPair0 rr.code 0b0001#4, loByte n, hiByte n]
  | .addHlRr rr => [opPair0 rr.code 0b1001#4]
  | .ldBcA => [0x02#8]
  | .ldDeA => [0x12#8]
  | .ldHlIncA => [0x22#8]
  | .ldHlDecA => [0x32#8]
  | .ldABc => [0x0A#8]
  | .ldADe => [0x1A#8]
  | .ldAHlInc => [0x2A#8]
  | .ldAHlDec => [0x3A#8]
  | .incRr rr => [opPair0 rr.code 0b0011#4]
  | .decRr rr => [opPair0 rr.code 0b1011#4]
  | .incR r => [opBlock0 r.code 4#3]
  | .incHl => [0x34#8]
  | .decR r => [opBlock0 r.code 5#3]
  | .decHl => [0x35#8]
  | .ldRN r n => [opBlock0 r.code 6#3, n]
  | .ldHlN n => [0x36#8, n]
  | .rlca => [0x07#8]
  | .rrca => [0x0F#8]
  | .rla => [0x17#8]
  | .rra => [0x1F#8]
  | .daa => [0x27#8]
  | .cpl => [0x2F#8]
  | .scf => [0x37#8]
  | .ccf => [0x3F#8]
  | .retCc cc => [opCond cc.code 0b000#3]
  | .ldhA8A n => [0xE0#8, n]
  | .addSpE e => [0xE8#8, e]
  | .ldhAA8 n => [0xF0#8, n]
  | .ldHlSpE e => [0xF8#8, e]
  | .popRr rr => [opPair3 rr.code 0b0001#4]
  | .popAf => [0xF1#8]
  | .ret => [0xC9#8]
  | .reti => [0xD9#8]
  | .jpHl => [0xE9#8]
  | .ldSpHl => [0xF9#8]
  | .jpCc cc a => [opCond cc.code 0b010#3, loByte a, hiByte a]
  | .ldhCA => [0xE2#8]
  | .ldA16A a => [0xEA#8, loByte a, hiByte a]
  | .ldhAC => [0xF2#8]
  | .ldAA16 a => [0xFA#8, loByte a, hiByte a]
  | .jpA16 a => [0xC3#8, loByte a, hiByte a]
  | .prefixCb op2 => [0xCB#8, op2]
  | .di => [0xF3#8]
  | .ei => [0xFB#8]
  | .callCc cc a => [opCond cc.code 0b100#3, loByte a, hiByte a]
  | .pushRr rr => [opPair3 rr.code 0b0101#4]
  | .pushAf => [0xF5#8]
  | .callA16 a => [0xCD#8, loByte a, hiByte a]
  | .rst t => [opBlock3 t 7#3]
  | .invalidD3 => [0xD3#8]
  | .invalidDB => [0xDB#8]
  | .invalidDD => [0xDD#8]
  | .invalidE3 => [0xE3#8]
  | .invalidE4 => [0xE4#8]
  | .invalidEB => [0xEB#8]
  | .invalidEC => [0xEC#8]
  | .invalidED => [0xED#8]
  | .invalidF4 => [0xF4#8]
  | .invalidFC => [0xFC#8]
  | .invalidFD => [0xFD#8]
  | .rlcR r => [0xCB#8, opBit 0#2 0#3 r.code]
  | .rlcHl => [0xCB#8, 0x06#8]
  | .rrcR r => [0xCB#8, opBit 0#2 1#3 r.code]
  | .rrcHl => [0xCB#8, 0x0E#8]
  | .rlR r => [0xCB#8, opBit 0#2 2#3 r.code]
  | .rlHl => [0xCB#8, 0x16#8]
  | .rrR r => [0xCB#8, opBit 0#2 3#3 r.code]
  | .rrHl => [0xCB#8, 0x1E#8]
  | .slaR r => [0xCB#8, opBit 0#2 4#3 r.code]
  | .slaHl => [0xCB#8, 0x26#8]
  | .sraR r => [0xCB#8, opBit 0#2 5#3 r.code]
  | .sraHl => [0xCB#8, 0x2E#8]
  | .swapR r => [0xCB#8, opBit 0#2 6#3 r.code]
  | .swapHl => [0xCB#8, 0x36#8]
  | .srlR r => [0xCB#8, opBit 0#2 7#3 r.code]
  | .srlHl => [0xCB#8, 0x3E#8]
  | .bitR b r => [0xCB#8, opBit 1#2 b r.code]
  | .bitHl b => [0xCB#8, opBit 1#2 b 6#3]
  | .resR b r => [0xCB#8, opBit 2#2 b r.code]
  | .resHl b => [0xCB#8, opBit 2#2 b 6#3]
  | .setR b r => [0xCB#8, opBit 3#2 b r.code]
  | .setHl b => [0xCB#8, opBit 3#2 b 6#3]

/-- The opcode byte of an instruction: byte 0, the prefix itself for the CB page (R140, R143). -/
def opcodeOf (i : Instr) : Byte := (encode i).headD 0#8

/-! ### The host's view of a table word -/

/-- Byte `k` of a number, counted from its low end. -/
def byteOfNat (w k : Nat) : Byte := BitVec.ofNat 8 (w >>> (8 * k))

/-- The three bytes of a table word of `nbits` bits, the first at the lowest address; bits above `nbits` are 0. -/
def tableBytes (nbits w : Nat) : Byte × Byte × Byte :=
  let v := w % 2 ^ nbits
  (byteOfNat v 0, byteOfNat v 1, byteOfNat v 2)

/-- The instruction this decoder reads from a table word. -/
def decodeTableWord (nbits w : Nat) : Option Instr :=
  let t := tableBytes nbits w
  match decode [t.1, t.2.1, t.2.2] with
  | .ok (i, _) => some i
  | .error _ => none

end Sys2Proof
end

