-- ==== Sys2Proof/Config.lean ====
section
/-! DEFINITION. What is fixed for the machine (00_scope.md R7) and the free values the spec leaves open.
A free value is an `opaque` constant without a body: nothing can evaluate it. -/

namespace Sys2Proof

/-- The out-of-scope collaborators that the bus reaches, one for each read port of 00_scope.md R12. -/
inductive Device where
  | gpuVram   -- `gpu.read`, 0x8000 to 0x9FFF (20_memory.md R84)
  | gpuOam    -- `gpu.readOam`, 0xFE00 to 0xFE9F (20_memory.md R85)
  | gpuHwio   -- `gpu.readHwio` (20_memory.md R96)
  | sound     -- `sound.readHwio` (20_memory.md R95)
  | joypad    -- `joypad.readHwio` (20_memory.md R97)
  | serial    -- `serial.readHwio` (20_memory.md R97)
deriving DecidableEq, Repr

namespace Config

/-- `ROM_CAPACITY`, 4 MiB (R7). -/
def romCapacity : Nat := 4194304

/-- `ROM_BANK_SIZE`, 16 KiB (R7). -/
def romBankSize : Nat := 0x4000

/-- `ERAM_CAPACITY`, 128 KiB (R7). -/
def eramCapacity : Nat := 131072

/-- The size of an external-RAM bank, 8 KiB (R7). -/
def eramBankSize : Nat := 0x2000

/-- The size of a work-RAM bank, 4 KiB (R7). -/
def wramBankSize : Nat := 0x1000

/-- The work-RAM store: the 8 banks of CGB (R7, R8); a machine that is not CGB reaches only the first 2. -/
def wramCapacity : Nat := 0x8000

/-- `HRAM_SIZE`, 127 addressable bytes (R7; 90_conflicts.md C3). -/
def hramSize : Nat := 127

/-- The size of a boot image, 256 bytes (R7). -/
def bootSize : Nat := 256

/-- `OPEN_BUS`, 0xFF (R7; 92_eei_decisions.md D17). -/
def openBus : Byte := 0xFF#8

/-- `WRAM_INIT` (R7; D31, OPEN): work RAM at power-on, by offset in the store. FREE VALUE (log 3). -/
opaque wramInit : Nat → Byte

/-- `HRAM_INIT` (R7; D31, OPEN): high RAM at power-on, by offset in the store. FREE VALUE (log 3). -/
opaque hramInit : Nat → Byte

/-- `COLLAB` (R7; D33, OPEN): what a collaborator answers to a read of an address, given how many oracle bytes have
been drawn before; so no two reads need agree (60_exceptions.md R460). FREE VALUE (log 4). -/
opaque collab : Device → Word → Nat → Byte

/-- `RTC` (R7; D23, OPEN): what MBC3's clock register answers, given its number and how many oracle bytes have been
drawn before (20_memory.md R118). FREE VALUE (log 5). -/
opaque rtc : Byte → Nat → Byte

end Config
end Sys2Proof
end

