-- ==== Sys2Proof/Machine/State.lean ====
section
/-! DEFINITION. The state of EGB-CORE as plain data (10_state.md; parameters that host operations change:
00_scope.md R7), the reasons a step stops, and the state after reset. -/

namespace Sys2Proof.Machine

/-- A sparse store: (offset, byte) pairs, offsets strictly rising. What an unlisted offset reads as is given by the
store's `unlisted` rule in Machine/Memory.lean. -/
abbrev Memory := List Host.Cell

/-- The four flags; F is a view of them (10_state.md R24). `h` and `c` are the spec's Hf and Cy. -/
structure Flags where
  z : Bool
  n : Bool
  h : Bool
  c : Bool
deriving DecidableEq, Repr

/-- The register file (10_state.md R20 to R24). -/
structure Regs where
  a : Byte
  b : Byte
  c : Byte
  d : Byte
  e : Byte
  h : Byte
  l : Byte
  f : Flags
  sp : Word
  pc : Word
deriving DecidableEq, Repr

/-- The kinds of `CoreFault` (60_exceptions.md R400). -/
inductive FaultKind where
  | invalidOpcode   -- cause code 1: one of the eleven opcodes was fetched
  | bankCountZero   -- cause code 2: a ROM-bank-select write while romBanks = 0
deriving DecidableEq, Repr

/-- The `CoreFault` record (60_exceptions.md R400); `detail` is the address and value written, for bankCountZero. -/
structure CoreFault where
  kind : FaultKind
  pc : Word
  opcode : Byte
  detail : Option (Word × Byte)
deriving DecidableEq, Repr

/-- The interrupt sources, in priority order (60_exceptions.md R411). -/
inductive Source where
  | vblank | lcdStat | timer | serial | joypad
deriving DecidableEq, Repr

/-- The attempts that the environment may make between two steps (00_scope.md R11, 60_exceptions.md R461): every source
but the Timer's, which only the Timer raises. -/
inductive Attempt where
  | vblank | lcdStat | serial | joypad
deriving DecidableEq, Repr

/-- The Timer: registers and hidden accumulators (10_state.md R33 to R36). -/
structure Timer where
  div : Byte
  tima : Byte
  tma : Byte
  speed : BitVec 2
  running : Bool
  divAcc : Nat
  timaAcc : Nat
deriving DecidableEq, Repr

/-- The cartridge controller kinds (00_scope.md R7, 20_memory.md R107). -/
inductive MbcKind where
  | null | mbc1 | mbc3 | mbc5
deriving DecidableEq, Repr

/-- The active cartridge controller: `MBC_KIND` and `romBanks` (00_scope.md R7) and its registers (10_state.md R40).
A variant that lacks a field leaves it alone. -/
structure Mbc where
  kind : MbcKind
  romBanks : Nat
  romBank : BitVec 9
  ramBank : Byte
  ramEnable : Bool
  mode : Bool
  rtcSelect : Bool
  dirty : Nat
deriving DecidableEq, Repr

/-- The whole machine. -/
structure State where
  /-- Registers, flags, SP, PC (R20 to R24). -/
  regs : Regs
  /-- The master interrupt enable (R26). -/
  ime : Bool
  /-- An EI has been executed and not yet taken effect (R27). -/
  eiPending : Bool
  /-- The run-mode set by HALT (R28). -/
  halted : Bool
  /-- The stored fault (R29). -/
  fault : Option CoreFault
  /-- IF: bit i is source i (R30). -/
  requested : BitVec 5
  /-- IE: bit i is source i (R31). -/
  enabled : BitVec 5
  /-- The Timer (R33 to R36). -/
  timer : Timer
  /-- Cycles spent that the Timer has not been advanced by (R36). -/
  timerDebt : Nat
  /-- The boot overlay is shown (R37). -/
  bootEnabled : Bool
  /-- The work-RAM bank register (R38). -/
  wramBank : BitVec 3
  /-- KEY1 bit 0 (R39). -/
  key1Prepare : Bool
  /-- KEY1 bit 7 (R39). -/
  key1Speed : Bool
  /-- The cartridge controller (R40). -/
  mbc : Mbc
  /-- The cartridge image, by physical offset (R41). -/
  rom : Memory
  /-- The boot image, if one is loaded (R37, R41). -/
  boot : Option Memory
  /-- External RAM, by physical offset (R41). -/
  eram : Memory
  /-- Work RAM, by bank * 0x1000 + offset (R41). -/
  wram : Memory
  /-- High RAM, by offset from 0xFF80 (R41). -/
  hram : Memory
  /-- The running cycle counter (R44). -/
  cycles : Nat
  /-- The total-instructions counter (R45). -/
  totalI : Nat
  /-- The CGB parameter (00_scope.md R8). -/
  cgb : Bool
  /-- The cartridge title, header bytes 0x134 to 0x142 (00_scope.md R7), kept as the fifteen raw bytes (log 26). -/
  title : List Byte
  /-- The cheat overlay, by address (00_scope.md R7, 60_exceptions.md R451). -/
  cheats : Memory
  /-- The breakpoint set (00_scope.md R7, 60_exceptions.md R450). -/
  breakpoints : List Word
  /-- THE MODEL'S OWN: how many oracle bytes have been drawn (log 4). -/
  draws : Nat
  /-- THE MODEL'S OWN: the attempts collaborators make before each coming step (log 10). -/
  arrivals : List (List Attempt)
  /-- THE MODEL'S OWN: the last step returned `Stopped` at a breakpoint (log 9). -/
  stopped : Bool
deriving DecidableEq, Repr

/-- Why a step answers a fault. -/
inductive Fault where
  /-- The core is faulted: `step` answers the stored record and changes nothing (60_exceptions.md R430 phase 0).
  Raised by `step` alone. Safe: the spec says that a faulted core has no further step. -/
  | coreFault (f : CoreFault)
deriving DecidableEq, Repr

/-- Why a step is refused. -/
inductive Refusal where
  /-- An instruction without a meaning; raised by an arm of `exec` alone. Safe: nothing is claimed of it. -/
  | notModelled (mnemonic : String)
deriving DecidableEq, Repr

/-- The registers after reset with no boot ROM (10_state.md R50). -/
def Regs.postBoot : Regs where
  a := 0x11#8
  b := 0x00#8
  c := 0x13#8
  d := 0x00#8
  e := 0xD8#8
  h := 0x01#8
  l := 0x4D#8
  f := ⟨true, false, true, true⟩
  sp := 0xFFFE#16
  pc := 0x0100#16

/-- The Timer after reset (R50). -/
def Timer.atReset : Timer where
  div := 0#8
  tima := 0#8
  tma := 0#8
  speed := 0#2
  running := false
  divAcc := 0
  timaAcc := 0

/-- A controller after reset (R50), for the kind and bank count of the cartridge. -/
def Mbc.atReset (kind : MbcKind) (romBanks : Nat) : Mbc where
  kind := kind
  romBanks := romBanks
  romBank := 1#9
  ramBank := 0#8
  ramEnable := false
  mode := false
  rtcSelect := false
  dirty := 0

/-- The machine right after reset at power-on (R50, column "no boot ROM"; 70_reset_and_hazards.md R500, R501). The
parameters are those of an empty cartridge image and no boot image (log 1). -/
def State.reset : State where
  regs := Regs.postBoot
  ime := false
  eiPending := false
  halted := false
  fault := none
  requested := 0#5
  enabled := 0#5
  timer := Timer.atReset
  timerDebt := 0
  bootEnabled := false
  wramBank := 1#3
  key1Prepare := false
  key1Speed := false
  mbc := Mbc.atReset .null 2
  rom := []
  boot := none
  eram := []
  wram := []
  hram := []
  cycles := 0
  totalI := 0
  cgb := false
  title := List.replicate 15 0#8
  cheats := []
  breakpoints := []
  draws := 0
  arrivals := []
  stopped := false

end Sys2Proof.Machine
end

