-- ==== Sys2Proof/Machine/Operands.lean ====
section
/-! DEFINITION. Operand forms: registers and pairs (10_state.md R20 to R24), immediates (30_encoding.md R147),
conditions (44_control.md R290), and the register-file updates. -/

namespace Sys2Proof.Machine

/-- F as a byte: Z, N, Hf, Cy in bits 7 to 4, zeros below (R24). -/
def Flags.toByte (f : Flags) : Byte :=
  BitVec.ofBool f.z ++ BitVec.ofBool f.n ++ BitVec.ofBool f.h ++ BitVec.ofBool f.c ++ 0b0000#4

/-- A write of a byte to F: bits 3 to 0 are discarded (R24). -/
def Flags.ofByte (v : Byte) : Flags where
  z := v.getLsbD 7
  n := v.getLsbD 6
  h := v.getLsbD 5
  c := v.getLsbD 4

/-- Read an 8-bit register (R20). -/
def Regs.get (r : Regs) : Reg8 → Byte
  | .b => r.b
  | .c => r.c
  | .d => r.d
  | .e => r.e
  | .h => r.h
  | .l => r.l
  | .a => r.a

/-- Write an 8-bit register (R20). -/
def Regs.set (r : Regs) (x : Reg8) (v : Byte) : Regs :=
  match x with
  | .b => { r with b := v }
  | .c => { r with c := v }
  | .d => { r with d := v }
  | .e => { r with e := v }
  | .h => { r with h := v }
  | .l => { r with l := v }
  | .a => { r with a := v }

/-- The pair BC (R21: high register first). -/
def Regs.bc (r : Regs) : Word := r.b ++ r.c

/-- The pair DE (R21). -/
def Regs.de (r : Regs) : Word := r.d ++ r.e

/-- The pair HL (R21). -/
def Regs.hl (r : Regs) : Word := r.h ++ r.l

/-- The pair AF (R21, R24). -/
def Regs.af (r : Regs) : Word := r.a ++ r.f.toByte

/-- Write BC (R21). -/
def Regs.setBc (r : Regs) (v : Word) : Regs := { r with b := hiByte v, c := loByte v }

/-- Write DE (R21). -/
def Regs.setDe (r : Regs) (v : Word) : Regs := { r with d := hiByte v, e := loByte v }

/-- Write HL (R21). -/
def Regs.setHl (r : Regs) (v : Word) : Regs := { r with h := hiByte v, l := loByte v }

/-- Write AF (R21, R24; 42_load16_stack.md R268). -/
def Regs.setAf (r : Regs) (v : Word) : Regs := { r with a := hiByte v, f := Flags.ofByte (loByte v) }

/-- Read an operand of table `rp` (30_encoding.md R150). -/
def Regs.get16 (r : Regs) : Reg16 → Word
  | .bc => r.bc
  | .de => r.de
  | .hl => r.hl
  | .sp => r.sp

/-- Write an operand of table `rp` (30_encoding.md R150). -/
def Regs.set16 (r : Regs) (x : Reg16) (v : Word) : Regs :=
  match x with
  | .bc => r.setBc v
  | .de => r.setDe v
  | .hl => r.setHl v
  | .sp => { r with sp := v }

/-- The operand of table `rp` that a pair of table `rp2` is (30_encoding.md R150). -/
def pairOf : StackPair → Reg16
  | .bc => .bc
  | .de => .de
  | .hl => .hl

/-- A signed byte widened to 16 bits (00_scope.md R15: `sext_16`). -/
def sext16 (v : Byte) : Word := v.signExtend 16

/-- The high-page address 0xFF00 + n (30_encoding.md R147: a8; 40_load8.md R213, R215). -/
def highPage (n : Byte) : Word := 0xFF#8 ++ n

/-- The condition test on the flags (44_control.md R290). -/
def Flags.holds (f : Flags) : Cond → Bool
  | .nz => !f.z
  | .z => f.z
  | .nc => !f.c
  | .c => f.c

/-- Replace the register file. -/
def State.setRegs (s : State) (r : Regs) : State := { s with regs := r }

/-- Write an 8-bit register. -/
def State.setReg (s : State) (x : Reg8) (v : Byte) : State := s.setRegs (s.regs.set x v)

/-- Write an operand of table `rp`. -/
def State.setReg16 (s : State) (x : Reg16) (v : Word) : State := s.setRegs (s.regs.set16 x v)

/-- Write the flags. -/
def State.setFlags (s : State) (f : Flags) : State := s.setRegs { s.regs with f := f }

/-- Write SP. -/
def State.setSp (s : State) (v : Word) : State := s.setRegs { s.regs with sp := v }

/-- Write PC (00_scope.md R15: `pc <- target`). -/
def State.setPc (s : State) (v : Word) : State := s.setRegs { s.regs with pc := v }

/-- `PC <- next = (pc0 + len) mod 65536` (30_encoding.md R144). -/
def State.advance (s : State) (len : Word) : State := s.setPc (s.regs.pc + len)

end Sys2Proof.Machine
end

