-- ==== Sys2Proof/Machine/Flags.lean ====
section
/-! DEFINITION. Every result and flag computation (41_alu8.md R230, R255, R257; 42_load16_stack.md R264;
43_alu16.md R280, R283; 45_misc_system.md R325 to R332; 46_cb_prefixed.md section 1). Sums and differences are
taken on natural numbers and compared before they are narrowed (00_scope.md R14). -/

namespace Sys2Proof.Machine

/-- The carry as a number. -/
def carryIn (c : Bool) : Nat := if c then 1 else 0

/-- The low four bits as a number. -/
def lowNibble (v : Byte) : Nat := v.toNat % 16

/-! ### The accumulator operations (R230) -/

/-- The operation `ooo` (30_encoding.md R150). -/
inductive AluOp where
  | add | adc | sub | sbc | and | xor | or | cp
deriving DecidableEq, Repr

/-- `a + x + c`, with the carries out of bits 3 and 7 (R230 rows ADD, ADC). -/
def addBytes (a x : Byte) (c : Bool) : Byte × Flags :=
  let r : Byte := BitVec.ofNat 8 (a.toNat + x.toNat + carryIn c)
  (r, { z := r == 0#8
        n := false
        h := decide (lowNibble a + lowNibble x + carryIn c > 0xF)
        c := decide (a.toNat + x.toNat + carryIn c > 0xFF) })

/-- `a - x - c`, with the borrows into bits 4 and 8 (R230 rows SUB, SBC). -/
def subBytes (a x : Byte) (c : Bool) : Byte × Flags :=
  let r : Byte := BitVec.ofInt 8 ((a.toNat : Int) - x.toNat - carryIn c)
  (r, { z := r == 0#8
        n := true
        h := decide (lowNibble a < lowNibble x + carryIn c)
        c := decide (a.toNat < x.toNat + carryIn c) })

/-- A logical result, with the constant Hf of its row (R230 rows AND, XOR, OR). -/
def logicByte (r : Byte) (h : Bool) : Byte × Flags :=
  (r, { z := r == 0#8, n := false, h := h, c := false })

/-- The result byte and flags of each row of R230. -/
def alu (op : AluOp) (a x : Byte) (c : Bool) : Byte × Flags :=
  match op with
  | .add => addBytes a x false
  | .adc => addBytes a x c
  | .sub => subBytes a x false
  | .sbc => subBytes a x c
  | .and => logicByte (a &&& x) true
  | .xor => logicByte (a ^^^ x) false
  | .or => logicByte (a ||| x) false
  | .cp => subBytes a x false

/-- Does the row write A (R230, last column)? -/
def AluOp.writesA : AluOp → Bool
  | .cp => false
  | .add => true
  | .adc => true
  | .sub => true
  | .sbc => true
  | .and => true
  | .xor => true
  | .or => true

/-- `Alu(ooo, x)` on the register file (R230). -/
def Regs.alu (r : Regs) (op : AluOp) (x : Byte) : Regs :=
  let res := Machine.alu op r.a x r.f.c
  if op.writesA then { r with a := res.1, f := res.2 } else { r with f := res.2 }

/-! ### INC and DEC of a byte (R255, R257) -/

/-- `v + 1`; Cy is kept. -/
def incByte (v : Byte) (f : Flags) : Byte × Flags :=
  let r : Byte := v + 1#8
  (r, { f with z := r == 0#8, n := false, h := decide (lowNibble v = 0xF) })

/-- `v - 1`; Cy is kept. -/
def decByte (v : Byte) (f : Flags) : Byte × Flags :=
  let r : Byte := v - 1#8
  (r, { f with z := r == 0#8, n := true, h := decide (lowNibble v = 0) })

/-! ### 16-bit sums -/

/-- ADD HL,rr (43_alu16.md R280): Z is kept, Hf is the carry out of bit 11, Cy out of bit 15. -/
def addWords (a x : Word) (f : Flags) : Word × Flags :=
  (a + x, { f with
    n := false
    h := decide (a.toNat % 0x1000 + x.toNat % 0x1000 > 0xFFF)
    c := decide (a.toNat + x.toNat > 0xFFFF) })

/-- SP + e8 (42_load16_stack.md R264, 43_alu16.md R283): Hf and Cy are the carries out of bits 3 and 7 of the unsigned
byte addition. -/
def addSigned (s : Word) (b1 : Byte) : Word × Flags :=
  (s + sext16 b1,
    { z := false
      n := false
      h := decide (s.toNat % 16 + b1.toNat % 16 > 0xF)
      c := decide (s.toNat % 256 + b1.toNat > 0xFF) })

/-! ### DAA (45_misc_system.md R325) -/

/-- The decimal adjustment of A, from N, Hf and Cy. -/
def daa (v : Byte) (f : Flags) : Byte × Flags :=
  let high : Bool := if f.n then f.c else f.c || decide (v.toNat > 0x99)
  let low : Bool := if f.n then f.h else f.h || decide (lowNibble v > 0x09)
  let fix : Byte := (if high then 0x60#8 else 0x00#8) + (if low then 0x06#8 else 0x00#8)
  let r : Byte := if f.n then v - fix else v + fix
  (r, { f with z := r == 0#8, h := false, c := high })

/-! ### Rotates and shifts (46_cb_prefixed.md section 1, 45_misc_system.md R329 to R332) -/

/-- The CB-page operation `yyy`. -/
inductive RotOp where
  | rlc | rrc | rl | rr | sla | sra | swap | srl
deriving DecidableEq, Repr

/-- `v[6:0] ++ low`. -/
def shiftUp (v : Byte) (low : Bool) : Byte := v.extractLsb' 0 7 ++ BitVec.ofBool low

/-- `high ++ v[7:1]`. -/
def shiftDown (v : Byte) (high : Bool) : Byte := BitVec.ofBool high ++ v.extractLsb' 1 7

/-- The columns `res` and `out` of the table of section 1. -/
def rot (op : RotOp) (v : Byte) (cy : Bool) : Byte × Bool :=
  match op with
  | .rlc => (shiftUp v (v.getLsbD 7), v.getLsbD 7)
  | .rrc => (shiftDown v (v.getLsbD 0), v.getLsbD 0)
  | .rl => (shiftUp v cy, v.getLsbD 7)
  | .rr => (shiftDown v cy, v.getLsbD 0)
  | .sla => (shiftUp v false, v.getLsbD 7)
  | .sra => (shiftDown v (v.getLsbD 7), v.getLsbD 0)
  | .swap => (v.extractLsb' 0 4 ++ v.extractLsb' 4 4, false)
  | .srl => (shiftDown v false, v.getLsbD 0)

/-- The flags of a CB-page rotate or shift: `Z <- (res = 0); N <- 0; Hf <- 0; Cy <- out`. -/
def rotFlags (res : Byte × Bool) : Flags :=
  { z := res.1 == 0#8, n := false, h := false, c := res.2 }

/-- The flags of an accumulator rotate: as `rotFlags` but Z is always 0 (R329 to R332). -/
def rotAFlags (res : Byte × Bool) : Flags :=
  { z := false, n := false, h := false, c := res.2 }

/-! ### Bit operations (46_cb_prefixed.md R367 to R372) -/

/-- The mask `1 << b`. -/
def bitMask (b : BitVec 3) : Byte := 1#8 <<< b.toNat

/-- BIT: Z is the complement of the tested bit, N = 0, Hf = 1, Cy kept (R367). -/
def bitTest (b : BitVec 3) (v : Byte) (f : Flags) : Flags :=
  { f with z := !v.getLsbD b.toNat, n := false, h := true }

/-- RES: bit `b` cleared (R369). -/
def bitClear (b : BitVec 3) (v : Byte) : Byte := v &&& ~~~(bitMask b)

/-- SET: bit `b` set (R371). -/
def bitSet (b : BitVec 3) (v : Byte) : Byte := v ||| bitMask b

end Sys2Proof.Machine
end

