-- ==== Sys2Proof/Machine/Memory.lean ====
section
/-! DEFINITION. Sparse stores: reading, writing, the canonical form, and what an unlisted offset reads as. -/

namespace Sys2Proof.Machine

/-- The byte listed at an offset, if any. -/
def Memory.get? : Memory → Nat → Option Byte
  | [], _ => none
  | (k, v) :: m, a => if k = a then some v else Memory.get? m a

/-- List a byte at an offset, in place, in front of the first higher offset. -/
def Memory.insert (a : Nat) (v : Byte) : Memory → Memory
  | [] => [(a, v)]
  | (k, w) :: m =>
    if a < k then (a, v) :: (k, w) :: m
    else if a = k then (a, v) :: m
    else (k, w) :: Memory.insert a v m

/-- List nothing at an offset. -/
def Memory.erase (a : Nat) : Memory → Memory
  | [] => []
  | (k, w) :: m => if k = a then m else (k, w) :: Memory.erase a m

/-- Write a byte, given the value that unlisted offsets hold if that is a known one: writing that value lists
nothing. -/
def Memory.write (unlisted : Option Byte) (a : Nat) (v : Byte) (m : Memory) : Memory :=
  if unlisted = some v then m.erase a else m.insert a v

/-- Is every listed offset above `low`, each above the one before it? -/
def Memory.risesFrom : Nat → Memory → Bool
  | _, [] => true
  | low, (k, _) :: m => decide (low ≤ k) && Memory.risesFrom (k + 1) m

/-- The canonical form of a store of `size` bytes: offsets strictly rising and below `size`, and no entry equal to
what an unlisted offset is known to hold. -/
def Memory.wf (size : Nat) (unlisted : Option Byte) (m : Memory) : Bool :=
  m.risesFrom 0 && m.all fun kv => decide (kv.1 < size) && decide (unlisted ≠ some kv.2)

/-- The canonical store that holds a list of bytes from offset `base` on. -/
def Memory.ofBytes (unlisted : Option Byte) (base : Nat) : List Byte → Memory
  | [] => []
  | v :: vs =>
    if unlisted = some v then Memory.ofBytes unlisted (base + 1) vs
    else (base, v) :: Memory.ofBytes unlisted (base + 1) vs

/-! ### The five stores (10_state.md R41) -/

/-- A byte of one of the physical stores behind the address space. -/
inductive Cell where
  | rom (off : Nat)
  | boot (off : Nat)
  | eram (off : Nat)
  | wram (off : Nat)
  | hram (off : Nat)
deriving DecidableEq, Repr

/-- The value unlisted bytes of a store are KNOWN to hold: 0x00 in ROM (20_memory.md R75) and in the boot image,
0xFF in external RAM (10_state.md R41), no known value in work RAM and high RAM (92_eei_decisions.md D31). -/
def Cell.unlisted : Cell → Option Byte
  | .rom _ => some 0x00#8
  | .boot _ => some 0x00#8
  | .eram _ => some 0xFF#8
  | .wram _ => none
  | .hram _ => none

/-- What an unlisted byte reads as: its known value, and otherwise the power-on contents that the spec leaves open,
a free value (log 3). -/
def Cell.powerOn : Cell → Byte
  | .rom _ => 0x00#8
  | .boot _ => 0x00#8
  | .eram _ => 0xFF#8
  | .wram off => Config.wramInit off
  | .hram off => Config.hramInit off

/-- The store that holds a cell, and the cell's offset in it; a boot cell of a machine without a boot image has an
empty store. -/
def Cell.store (s : State) : Cell → Memory × Nat
  | .rom off => (s.rom, off)
  | .boot off => (s.boot.getD [], off)
  | .eram off => (s.eram, off)
  | .wram off => (s.wram, off)
  | .hram off => (s.hram, off)

/-- The model's read of one physical byte. -/
def State.readCell (s : State) (c : Cell) : Byte :=
  ((c.store s).1.get? (c.store s).2).getD c.powerOn

/-- Store one physical byte. -/
def State.writeCell (s : State) (c : Cell) (v : Byte) : State :=
  match c with
  | .rom off => { s with rom := s.rom.write c.unlisted off v }
  | .boot off => { s with boot := s.boot.map fun m => m.write c.unlisted off v }
  | .eram off => { s with eram := s.eram.write c.unlisted off v }
  | .wram off => { s with wram := s.wram.write c.unlisted off v }
  | .hram off => { s with hram := s.hram.write c.unlisted off v }

/-- Every store is in canonical form. -/
def State.storesWf (s : State) : Bool :=
  s.rom.wf Config.romCapacity (some 0x00#8)
    && (s.boot.getD []).wf Config.bootSize (some 0x00#8)
    && s.eram.wf Config.eramCapacity (some 0xFF#8)
    && s.wram.wf Config.wramCapacity none
    && s.hram.wf Config.hramSize none
    && s.cheats.wf 0x10000 none

end Sys2Proof.Machine
end

