-- ==== Sys2Proof/Machine/Cartridge.lean ====
section
/-! DEFINITION. The cartridge: header decode (20_memory.md R105 to R108), the controllers' registers (R110 to R127),
ROM and external RAM behind the windows (R72, R73, R75, R109, R115, R118, R124). -/

namespace Sys2Proof.Machine

/-! ### The header -/

/-- `MBC_KIND` from the byte at 0x147 (R107). -/
def mbcKindOf (t : Byte) : MbcKind :=
  let n := t.toNat
  if 0x01 ≤ n ∧ n ≤ 0x03 then .mbc1
  else if 0x0F ≤ n ∧ n ≤ 0x13 then .mbc3
  else if 0x19 ≤ n ∧ n ≤ 0x1E then .mbc5
  else .null

/-- `romBanks` from the byte at 0x148 (R108). -/
def romBanksOf (v : Byte) : Nat :=
  match v.toNat with
  | 0x00 => 2
  | 0x01 => 4
  | 0x02 => 8
  | 0x03 => 16
  | 0x04 => 32
  | 0x05 => 64
  | 0x06 => 128
  | 0x07 => 256
  | 0x08 => 512
  | 0x52 => 72
  | 0x53 => 80
  | 0x54 => 96
  | _ => 0

/-- `CGB` from the byte at 0x143 (R106). -/
def cgbOf (v : Byte) : Bool := v.getLsbD 7

/-! ### ROM -/

/-- `RomByte(off)`: the store below `ROM_CAPACITY`, open bus beyond (R75). -/
def State.romByte (s : State) (off : Nat) : Byte :=
  if off < Config.romCapacity then s.readCell (.rom off) else Config.openBus

/-- The bank shown at 0x4000 to 0x7FFF: the controller's `romBank`, which on NullMBC is the constant 1 (R73, R110;
10_state.md R40). -/
def Mbc.windowBank (m : Mbc) : Nat :=
  match m.kind with
  | .null => 1
  | .mbc1 => m.romBank.toNat
  | .mbc3 => m.romBank.toNat
  | .mbc5 => m.romBank.toNat

/-! ### The controllers' registers: writes at 0x0000 to 0x7FFF -/

/-- Select a ROM bank: the reduction modulo `romBanks`, which has no value for 0 banks (R126, R127). -/
def Mbc.selectRom (m : Mbc) (bank : Nat) : Option Mbc :=
  if m.romBanks = 0 then none else some { m with romBank := BitVec.ofNat 9 (bank % m.romBanks) }

/-- MBC1 (R111 to R114). -/
def Mbc.write1 (m : Mbc) (addr : Nat) (v : Byte) : Option Mbc :=
  if addr < 0x2000 then some { m with ramEnable := decide (v.toNat % 16 = 0xA) }
  else if addr < 0x4000 then m.selectRom ((m.romBank &&& 0x60#9).toNat ||| (v.toNat % 32))
  else if addr < 0x6000 then
    if m.mode then some { m with ramBank := v &&& 0x03#8 }
    else m.selectRom ((v.toNat % 4) <<< 5 ||| (m.romBank &&& 0x1F#9).toNat)
  else some { m with mode := v.getLsbD 0 }

/-- MBC3 (R116 to R119). -/
def Mbc.write3 (m : Mbc) (addr : Nat) (v : Byte) : Option Mbc :=
  if addr < 0x2000 then some { m with ramEnable := decide (v.toNat % 16 = 0xA) }
  else if addr < 0x4000 then m.selectRom (if v = 0#8 then 1 else v.toNat)
  else if addr < 0x6000 then some { m with ramBank := v, rtcSelect := decide (v.toNat ≥ 0x08) }
  else some m

/-- MBC5 (R120 to R123). -/
def Mbc.write5 (m : Mbc) (addr : Nat) (v : Byte) : Option Mbc :=
  if addr < 0x2000 then some { m with ramEnable := decide (v = 0x0A#8) }
  else if addr < 0x3000 then m.selectRom ((m.romBank &&& 0x100#9).toNat ||| v.toNat)
  else if addr < 0x4000 then m.selectRom ((v.toNat % 2) <<< 8 ||| (m.romBank &&& 0xFF#9).toNat)
  else if addr < 0x6000 then some { m with ramBank := v &&& 0x0F#8 }
  else some m

/-- `MBC.write(addr, v)` for an address below 0x8000; none is the reduction by 0 banks (R74, R110, R127). -/
def Mbc.write (m : Mbc) (addr : Nat) (v : Byte) : Option Mbc :=
  match m.kind with
  | .null => some m
  | .mbc1 => m.write1 addr v
  | .mbc3 => m.write3 addr v
  | .mbc5 => m.write5 addr v

/-! ### The window at 0xA000 to 0xBFFF -/

/-- What stands behind the window at 0xA000. -/
inductive ExtTarget where
  | fixed (v : Byte)      -- nothing is stored there: reads give `v`, writes are dropped
  | ram (off : Nat)       -- the external-RAM byte at an offset
  | clock (reg : Byte)    -- an MBC3 clock register
deriving DecidableEq, Repr

/-- The offset in external RAM of an address in 0xA000 to 0xBFFF (R109). -/
def Mbc.eramOffset (m : Mbc) (addr : Nat) : Nat :=
  (m.ramBank.toNat * Config.eramBankSize + (addr - 0xA000)) % Config.eramCapacity

/-- `MBC.read` and `MBC.write` at 0xA000 to 0xBFFF (R110, R115, R118, R124). -/
def Mbc.extTarget (m : Mbc) (addr : Nat) : ExtTarget :=
  match m.kind with
  | .null => .fixed 0x00#8
  | .mbc1 => if m.ramEnable then .ram (m.eramOffset addr) else .fixed Config.openBus
  | .mbc3 =>
    if m.ramEnable then
      if m.rtcSelect then .clock m.ramBank else .ram (m.eramOffset addr)
    else .fixed Config.openBus
  | .mbc5 => if m.ramEnable then .ram (m.eramOffset addr) else .fixed Config.openBus

end Sys2Proof.Machine
end

