-- ==== Sys2Proof/Machine/Interrupts.lean ====
section
/-! DEFINITION. The interrupt controller: sources, requests masked at the source, the pending set and its priority
(60_exceptions.md R410 to R415). Dispatch itself is `takeInterrupt` of Machine/Ops.lean. -/

namespace Sys2Proof.Machine

/-- The index of a source: its bit in `requested` and `enabled` (R411). -/
def Source.index : Source → Nat
  | .vblank => 0
  | .lcdStat => 1
  | .timer => 2
  | .serial => 3
  | .joypad => 4

/-- The vector address of a source (R411). -/
def Source.vector : Source → Word
  | .vblank => 0x0040#16
  | .lcdStat => 0x0048#16
  | .timer => 0x0050#16
  | .serial => 0x0058#16
  | .joypad => 0x0060#16

/-- The bit of a source. -/
def Source.mask (i : Source) : BitVec 5 := 1#5 <<< i.index

/-- `attempt<Source>()` on the requested set: the bit is set only if the source is enabled (R412). -/
def Source.attemptOn (i : Source) (enabled requested : BitVec 5) : BitVec 5 :=
  if enabled.getLsbD i.index then requested ||| i.mask else requested

/-- `attempt<Source>()` (R412). -/
def State.attempt (s : State) (i : Source) : State :=
  { s with requested := i.attemptOn s.enabled s.requested }

/-- The source of a collaborator's attempt (R411). -/
def Attempt.source : Attempt → Source
  | .vblank => .vblank
  | .lcdStat => .lcdStat
  | .serial => .serial
  | .joypad => .joypad

/-- Several collaborators' attempts, in order (R461). -/
def State.attemptAll (s : State) : List Attempt → State
  | [] => s
  | i :: is => (s.attempt i.source).attemptAll is

/-- The pending set (R414). -/
def State.pending (s : State) : BitVec 5 := s.requested &&& s.enabled

/-- The source of the lowest index in a set (R415). -/
def firstSource (p : BitVec 5) : Option Source :=
  if p.getLsbD 0 then some .vblank
  else if p.getLsbD 1 then some .lcdStat
  else if p.getLsbD 2 then some .timer
  else if p.getLsbD 3 then some .serial
  else if p.getLsbD 4 then some .joypad
  else none

/-- A 5-bit set as the byte a read of 0xFF0F or 0xFFFF returns: bits 7 to 5 are 0 (10_state.md R30, R31). -/
def setToByte (p : BitVec 5) : Byte := 0b000#3 ++ p

/-- The 5-bit set that a write of a byte to 0xFF0F or 0xFFFF leaves (10_state.md R30, R31). -/
def byteToSet (v : Byte) : BitVec 5 := v.extractLsb' 0 5

end Sys2Proof.Machine
end

