-- ==== Sys2Proof/Machine/Timer.lean ====
section
/-! DEFINITION. The Timer: its registers on the bus (60_exceptions.md R441, R442) and its advance (R443). -/

namespace Sys2Proof.Machine

/-- A read of TAC: `0b00000 ++ running ++ speed` (R441). -/
def Timer.tac (t : Timer) : Byte := 0b00000#5 ++ BitVec.ofBool t.running ++ t.speed

/-- A write of DIV, whatever the value (R442). -/
def Timer.clearDiv (t : Timer) : Timer := { t with div := 0#8, divAcc := 0 }

/-- A write of TIMA (R442). -/
def Timer.writeTima (t : Timer) (v : Byte) : Timer := { t with tima := v }

/-- A write of TMA (R442). -/
def Timer.writeTma (t : Timer) (v : Byte) : Timer := { t with tma := v }

/-- A write of TAC: `speed <- v[1:0]; running <- v[2]` (R442). -/
def Timer.writeTac (t : Timer) (v : Byte) : Timer :=
  { t with speed := v.extractLsb' 0 2, running := v.getLsbD 2 }

/-- The cycles between two increments of TIMA (10_state.md R35, R443). -/
def timerPeriod (speed : BitVec 2) : Nat :=
  match speed.toNat with
  | 0 => 1024
  | 1 => 16
  | 2 => 64
  | _ => 256

/-- The cycles between two increments of DIV (R443). -/
def divPeriod : Nat := 256

/-- The divider's part of `Timer.advance(n)`: the loop subtracts 256 as often as it fits (R443). -/
def Timer.advanceDiv (t : Timer) (n : Nat) : Timer :=
  { t with
    div := t.div + BitVec.ofNat 8 ((t.divAcc + n) / divPeriod)
    divAcc := (t.divAcc + n) % divPeriod }

/-- One increment of TIMA: on overflow it reloads from TMA (R443). -/
def Timer.tick (t : Timer) : Timer :=
  { t with tima := if t.tima = 0xFF#8 then t.tma else t.tima + 1#8 }

/-- `k` increments of TIMA, each overflow calling `attemptTimer` (R443, R444). -/
def State.timerTicks (s : State) : Nat → State
  | 0 => s
  | k + 1 =>
    let t := s.timer
    let s' := { s with timer := t.tick }
    (if t.tima = 0xFF#8 then s'.attempt .timer else s').timerTicks k

/-- The counter's part of `Timer.advance(n)`: suspended unless running; the loop subtracts the period as often as it
fits and increments TIMA each time (R443). -/
def State.advanceTima (s : State) (n : Nat) : State :=
  if s.timer.running then
    let total := s.timer.timaAcc + n
    let p := timerPeriod s.timer.speed
    State.timerTicks { s with timer := { s.timer with timaAcc := total % p } } (total / p)
  else s

/-- `Timer.advance(n)` (R443). -/
def State.timerAdvance (s : State) (n : Nat) : State :=
  State.advanceTima { s with timer := s.timer.advanceDiv n } n

end Sys2Proof.Machine
end

