-- ==== Sys2Proof/Machine/Bus.lean ====
section
/-! DEFINITION. The memory bus: the address map (20_memory.md R70 to R99) and what a read answers and a write does at
each address (R60, R61). -/

namespace Sys2Proof.Machine

/-- The owner of an address, by the address alone (R70, R83). -/
inductive Target where
  | romFixed      -- 0x0000 to 0x3FFF, with the boot overlay below 0x0100
  | romWindow     -- 0x4000 to 0x7FFF
  | vram          -- 0x8000 to 0x9FFF
  | extRam        -- 0xA000 to 0xBFFF
  | wramFixed     -- 0xC000 to 0xCFFF and its echo at 0xE000 to 0xEFFF
  | wramBanked    -- 0xD000 to 0xDFFF and its echo at 0xF000 to 0xFDFF
  | oam           -- 0xFE00 to 0xFE9F
  | unowned       -- 0xFEA0 to 0xFEFF and the HWIO addresses of no owner
  | joypad        -- 0xFF00
  | serial        -- 0xFF01 to 0xFF02
  | div           -- 0xFF04
  | tima          -- 0xFF05
  | tma           -- 0xFF06
  | tac           -- 0xFF07
  | interruptFlag -- 0xFF0F
  | sound         -- 0xFF10 to 0xFF3F, 0xFF76 to 0xFF77
  | gpuHwio       -- 0xFF40 to 0xFF4C, 0xFF4E to 0xFF4F, 0xFF51 to 0xFF55, 0xFF68 to 0xFF6C
  | key1          -- 0xFF4D
  | bootLatch     -- 0xFF50
  | svbk          -- 0xFF70
  | hram          -- 0xFF80 to 0xFFFE
  | interruptEnable -- 0xFFFF
deriving DecidableEq, Repr

/-- HWIO routing: exact addresses before ranges (R83). -/
def routeHwio (n : Nat) : Target :=
  if n = 0xFF0F then .interruptFlag
  else if n = 0xFF4D then .key1
  else if n = 0xFF50 then .bootLatch
  else if n = 0xFF70 then .svbk
  else if n = 0xFF00 then .joypad
  else if 0xFF01 ≤ n ∧ n ≤ 0xFF02 then .serial
  else if n = 0xFF04 then .div
  else if n = 0xFF05 then .tima
  else if n = 0xFF06 then .tma
  else if n = 0xFF07 then .tac
  else if 0xFF10 ≤ n ∧ n ≤ 0xFF3F then .sound
  else if 0xFF40 ≤ n ∧ n ≤ 0xFF4F then .gpuHwio
  else if 0xFF51 ≤ n ∧ n ≤ 0xFF55 then .gpuHwio
  else if 0xFF68 ≤ n ∧ n ≤ 0xFF6C then .gpuHwio
  else if 0xFF76 ≤ n ∧ n ≤ 0xFF77 then .sound
  else .unowned

/-- The address map (R70). -/
def route (a : Word) : Target :=
  let n := a.toNat
  if n < 0x4000 then .romFixed
  else if n < 0x8000 then .romWindow
  else if n < 0xA000 then .vram
  else if n < 0xC000 then .extRam
  else if n < 0xD000 then .wramFixed
  else if n < 0xE000 then .wramBanked
  else if n < 0xF000 then .wramFixed
  else if n < 0xFE00 then .wramBanked
  else if n < 0xFEA0 then .oam
  else if n < 0xFF00 then .unowned
  else if n < 0xFF80 then routeHwio n
  else if n < 0xFFFF then .hram
  else .interruptEnable

/-- The work-RAM bank at 0xD000: the register if CGB, else the constant 1 (10_state.md R38, R78). -/
def State.wramBankShown (s : State) : Nat := if s.cgb then s.wramBank.toNat else 1

/-- The cell of an address in bank 0 of work RAM or its echo (R77, R79). -/
def wramFixedCell (a : Word) : Cell := .wram (a.toNat % Config.wramBankSize)

/-- The cell of an address in the switched bank of work RAM or its echo (R78, R79). -/
def State.wramBankedCell (s : State) (a : Word) : Cell :=
  .wram (s.wramBankShown * Config.wramBankSize + a.toNat % Config.wramBankSize)

/-- The cell of a high-RAM address (R81). -/
def hramCell (a : Word) : Cell := .hram (a.toNat - 0xFF80)

/-- Is the boot overlay shown at an address (R71)? -/
def State.bootShown (s : State) (a : Word) : Bool :=
  s.bootEnabled && s.boot.isSome && decide (a.toNat < 0x0100)

/-- What answers a read. -/
inductive Answer where
  | byte (v : Byte)                     -- the block itself
  | collab (d : Device) (a : Word)      -- a collaborator: a draw of `COLLAB` (60_exceptions.md R460)
  | clock (reg : Byte)                  -- an MBC3 clock register: a draw of `RTC` (R118)
deriving DecidableEq, Repr

/-- The answer of the address map to a read (R70 to R98). -/
def State.mapAnswer (s : State) (a : Word) : Answer :=
  match route a with
  | .romFixed =>
    if s.bootShown a then .byte (s.readCell (.boot a.toNat)) else .byte (s.romByte a.toNat)
  | .romWindow => .byte (s.romByte (s.mbc.windowBank * Config.romBankSize + (a.toNat - 0x4000)))
  | .vram => .collab .gpuVram a
  | .extRam =>
    match s.mbc.extTarget a.toNat with
    | .fixed v => .byte v
    | .ram off => .byte (s.readCell (.eram off))
    | .clock reg => .clock reg
  | .wramFixed => .byte (s.readCell (wramFixedCell a))
  | .wramBanked => .byte (s.readCell (s.wramBankedCell a))
  | .oam => .collab .gpuOam a
  | .unowned => .byte Config.openBus
  | .joypad => .collab .joypad a
  | .serial => .collab .serial a
  | .div => .byte s.timer.div
  | .tima => .byte s.timer.tima
  | .tma => .byte s.timer.tma
  | .tac => .byte s.timer.tac
  | .interruptFlag => .byte (setToByte s.requested)
  | .sound => .collab .sound a
  | .gpuHwio => .collab .gpuHwio a
  | .key1 =>
    if s.cgb then .byte (BitVec.ofBool s.key1Speed ++ 0b000000#6 ++ BitVec.ofBool s.key1Prepare)
    else .collab .gpuHwio a
  | .bootLatch => .byte Config.openBus
  | .svbk => if s.cgb then .byte (0b00000#5 ++ s.wramBank) else .byte Config.openBus
  | .hram => .byte (s.readCell (hramCell a))
  | .interruptEnable => .byte (setToByte s.enabled)

/-- The answer to a read: the cheat overlay before the map (R60; 60_exceptions.md R451). -/
def State.answer (s : State) (a : Word) : Answer :=
  match s.cheats.get? a.toNat with
  | some v => .byte v
  | none => s.mapAnswer a

/-- The byte of an answer, the next oracle byte being drawn where an oracle answers. -/
def Answer.value (ans : Answer) (draws : Nat) : Byte :=
  match ans with
  | .byte v => v
  | .collab d a => Config.collab d a draws
  | .clock reg => Config.rtc reg draws

/-- How many oracle bytes an answer draws. -/
def Answer.drawn : Answer → Nat
  | .byte _ => 0
  | .collab _ _ => 1
  | .clock _ => 1

/-- The model's read of one byte of the address space: what a bus read at an address returns now. -/
def State.peek (s : State) (a : Word) : Byte := (s.answer a).value s.draws

/-! ### Writes -/

/-- The physical byte that a bus write at an address stores to, if any (R76 to R81). -/
def State.storedCell (s : State) (a : Word) : Option Cell :=
  match route a with
  | .extRam =>
    match s.mbc.extTarget a.toNat with
    | .ram off => some (.eram off)
    | .fixed _ => none
    | .clock _ => none
  | .wramFixed => some (wramFixedCell a)
  | .wramBanked => some (s.wramBankedCell a)
  | .hram => some (hramCell a)
  | _ => none

/-- A byte stored in external RAM counts as dirty (R115, R128). -/
def State.writeEram (s : State) (off : Nat) (v : Byte) : State :=
  let t := s.writeCell (.eram off) v
  { t with mbc := { t.mbc with dirty := t.mbc.dirty + 1 } }

/-- A write of the work-RAM bank register: `v[2:0]`, 0 becoming 1 (10_state.md R38). -/
def svbkOf (v : Byte) : BitVec 3 :=
  if v.extractLsb' 0 3 = 0#3 then 1#3 else v.extractLsb' 0 3

/-- The write the address map gives (R61 step 1, R70 to R98); none is a bank selection by 0 banks (R127). A write to a
collaborator has no effect on this block (60_exceptions.md R460). -/
def State.busWrite (s : State) (a : Word) (v : Byte) : Option State :=
  match route a with
  | .romFixed => (s.mbc.write a.toNat v).map fun m => { s with mbc := m }
  | .romWindow => (s.mbc.write a.toNat v).map fun m => { s with mbc := m }
  | .vram => some s
  | .extRam =>
    match s.mbc.extTarget a.toNat with
    | .ram off => some (s.writeEram off v)
    | .fixed _ => some s
    | .clock _ => some s
  | .wramFixed => some (s.writeCell (wramFixedCell a) v)
  | .wramBanked => some (s.writeCell (s.wramBankedCell a) v)
  | .oam => some s
  | .unowned => some s
  | .joypad => some s
  | .serial => some s
  | .div => some { s with timer := s.timer.clearDiv }
  | .tima => some { s with timer := s.timer.writeTima v }
  | .tma => some { s with timer := s.timer.writeTma v }
  | .tac => some { s with timer := s.timer.writeTac v }
  | .interruptFlag => some { s with requested := byteToSet v }
  | .sound => some s
  | .gpuHwio => some s
  | .key1 => if s.cgb then some { s with key1Prepare := v.getLsbD 0 } else some s
  | .bootLatch => if v.getLsbD 0 then some { s with bootEnabled := false } else some s
  | .svbk => if s.cgb then some { s with wramBank := svbkOf v } else some s
  | .hram => some (s.writeCell (hramCell a) v)
  | .interruptEnable => some { s with enabled := byteToSet v }

end Sys2Proof.Machine
end

