-- ==== Sys2Proof/Machine/Ops.lean ====
section
/-! DEFINITION. The named operations every instruction is made of: bus accesses with their cycles (20_memory.md R60,
R61), internal cycles, the stack (42_load16_stack.md R260), raising CoreFault (60_exceptions.md R400, R401),
interrupt dispatch (R416) and the return from it (44_control.md R300). -/

namespace Sys2Proof.Machine

/-- What a meaning answers. -/
abbrev Exec := Host.Outcome State Fault Refusal

/-- A course of actions inside a step: it goes on from a state, or CoreFault was raised and abandoned the rest. -/
inductive Flow where
  | ok (s : State)
  | raised (s : State)
deriving DecidableEq, Repr

/-- Go on with `k` unless CoreFault was raised. -/
def Flow.andThen (f : Flow) (k : State → Flow) : Flow :=
  match f with
  | .ok s => k s
  | .raised s => .raised s

/-- Go on with a plain update unless CoreFault was raised. -/
def Flow.thenDo (f : Flow) (k : State → State) : Flow :=
  match f with
  | .ok s => .ok (k s)
  | .raised s => .raised s

/-- The state a course of actions ends in, raised or not: a raised fault is a state with `fault` set (log 6). -/
def Flow.state : Flow → State
  | .ok s => s
  | .raised s => s

/-- The outcome of a course of actions. -/
def Flow.outcome (f : Flow) : Exec := .next f.state

/-! ### Cycles -/

/-- Add `n` cycles to `cycles` and to `timerDebt`: `Internal(n)` (70_reset_and_hazards.md R531). -/
def State.spend (s : State) (n : Nat) : State :=
  { s with cycles := s.cycles + n, timerDebt := s.timerDebt + n }

/-! ### Bus accesses -/

/-- Count the oracle bytes drawn. -/
def State.drew (s : State) (n : Nat) : State := { s with draws := s.draws + n }

/-- The state after a bus read at an address: 4 cycles, and a draw where an oracle answered (R60 step 3). -/
def State.afterRead (s : State) (a : Word) : State := (s.drew (s.answer a).drawn).spend 4

/-- `MemRead(addr, 1)` (R60): the byte, and the state after. -/
def State.memRead (s : State) (a : Word) : Byte × State := (s.peek a, s.afterRead a)

/-- The instruction a raised fault names: its address and its opcode byte (60_exceptions.md R400). -/
structure FaultSite where
  pc : Word
  opcode : Byte
deriving DecidableEq, Repr

/-- The site of an instruction about to execute at PC. -/
def State.site (s : State) (i : Instr) : FaultSite := ⟨s.regs.pc, opcodeOf i⟩

/-- `raise CoreFault`: the record is stored; what is abandoned is the caller's business (R400). -/
def State.raise (s : State) (f : CoreFault) : State := { s with fault := some f }

/-- `MemWrite(addr, 1, v)` (R61). A bank selection by 0 banks raises CoreFault(BankCountZero) and changes nothing else
(R127; 60_exceptions.md R400, R401; log 7). -/
def State.memWrite (s : State) (site : FaultSite) (a : Word) (v : Byte) : Flow :=
  match s.busWrite a v with
  | some t => .ok (t.spend 4)
  | none => .raised (s.raise ⟨.bankCountZero, site.pc, site.opcode, some (a, v)⟩)

/-- `MemWrite(addr, 2, v)`: the low byte first, the second address wrapping (R62). -/
def State.memWrite16 (s : State) (site : FaultSite) (a v : Word) : Flow :=
  (s.memWrite site a (loByte v)).andThen fun t => t.memWrite site (a + 1#16) (hiByte v)

/-! ### The stack (42_load16_stack.md R260) -/

/-- `Push16(v)`: the high byte at SP - 1, then the low byte at SP - 2. -/
def State.push16 (s : State) (site : FaultSite) (v : Word) : Flow :=
  let s1 := s.setSp (s.regs.sp - 1#16)
  (s1.memWrite site s1.regs.sp (hiByte v)).andThen fun s2 =>
    let s3 := s2.setSp (s2.regs.sp - 1#16)
    s3.memWrite site s3.regs.sp (loByte v)

/-- `Pop16()`: the low byte at SP, the high byte at SP + 1. -/
def State.pop16 (s : State) : Word × State :=
  let lo := s.memRead s.regs.sp
  let s1 := lo.2.setSp (lo.2.regs.sp + 1#16)
  let hi := s1.memRead s1.regs.sp
  (hi.1 ++ lo.1, hi.2.setSp (hi.2.regs.sp + 1#16))

/-! ### Taking an exception, and returning -/

/-- The invalid-opcode fault of the instruction at PC: precise, PC is not advanced (60_exceptions.md R401). -/
def State.raiseInvalid (s : State) (i : Instr) : State :=
  s.raise ⟨.invalidOpcode, s.regs.pc, opcodeOf i, none⟩

/-- Interrupt dispatch for a source: IME and the request cleared, PC pushed, PC at the vector, 12 more cycles (R416). A
push that selects a bank of 0 banks raises CoreFault with the PC being pushed and opcode 0x00 (R400). `eiPending` is not
among what R416 changes, so an EI executed in this step takes effect in the handler's first step (log 25). -/
def State.takeInterrupt (s : State) (i : Source) : Flow :=
  let s1 : State := { s with ime := false, requested := s.requested &&& ~~~i.mask }
  (s1.push16 ⟨s.regs.pc, 0x00#8⟩ s.regs.pc).thenDo fun t => (t.setPc i.vector).spend 12

/-- The return from an interrupt handler: PC popped, IME set at once, 4 more cycles (44_control.md R300). -/
def State.returnFromInterrupt (s : State) : State :=
  let p := s.pop16
  State.spend { p.2.setPc p.1 with ime := true } 4

end Sys2Proof.Machine
end

