-- ==== Sys2Proof/Machine/Alu16.lean ====
section
/-! DEFINITION. 16-bit arithmetic (43_alu16.md R280 to R283). -/

namespace Sys2Proof.Machine

/-- ADD HL,rr (R280). -/
def execAddHlRr (rr : Reg16) (s : State) : Exec :=
  let res := addWords s.regs.hl (s.regs.get16 rr) s.regs.f
  .next ((((s.advance 1#16).setReg16 .hl res.1).setFlags res.2).spend 4)

/-- INC rr (R281). -/
def execIncRr (rr : Reg16) (s : State) : Exec :=
  .next (((s.advance 1#16).setReg16 rr (s.regs.get16 rr + 1#16)).spend 4)

/-- DEC rr (R282). -/
def execDecRr (rr : Reg16) (s : State) : Exec :=
  .next (((s.advance 1#16).setReg16 rr (s.regs.get16 rr - 1#16)).spend 4)

/-- ADD SP,e8 (R283). -/
def execAddSpE (e : Byte) (s : State) : Exec :=
  let res := addSigned s.regs.sp e
  .next ((((s.advance 2#16).setSp res.1).setFlags res.2).spend 8)

end Sys2Proof.Machine
end

