-- ==== Sys2Proof/Machine/Alu8.lean ====
section
/-! DEFINITION. 8-bit arithmetic and logic (41_alu8.md R230 to R258). -/

namespace Sys2Proof.Machine

/-! ### The three operand forms of the accumulator operations -/

/-- `OP A,r`: length 1, no data access. -/
def State.aluReg (s : State) (op : AluOp) (src : Reg8) : State :=
  (s.advance 1#16).setRegs ((s.advance 1#16).regs.alu op (s.regs.get src))

/-- `OP A,(HL)`: length 1, one read. -/
def State.aluHl (s : State) (op : AluOp) : State :=
  let m := (s.advance 1#16).memRead s.regs.hl
  m.2.setRegs (m.2.regs.alu op m.1)

/-- `OP A,n8`: length 2. -/
def State.aluImm (s : State) (op : AluOp) (n : Byte) : State :=
  (s.advance 2#16).setRegs ((s.advance 2#16).regs.alu op n)

/-- ADD A,r (R231). -/
def execAddR (src : Reg8) (s : State) : Exec := .next (s.aluReg .add src)

/-- ADD A,(HL) (R232). -/
def execAddHl (s : State) : Exec := .next (s.aluHl .add)

/-- ADD A,n8 (R233). -/
def execAddN (n : Byte) (s : State) : Exec := .next (s.aluImm .add n)

/-- ADC A,r (R234). -/
def execAdcR (src : Reg8) (s : State) : Exec := .next (s.aluReg .adc src)

/-- ADC A,(HL) (R235). -/
def execAdcHl (s : State) : Exec := .next (s.aluHl .adc)

/-- ADC A,n8 (R236). -/
def execAdcN (n : Byte) (s : State) : Exec := .next (s.aluImm .adc n)

/-- SUB A,r (R237). -/
def execSubR (src : Reg8) (s : State) : Exec := .next (s.aluReg .sub src)

/-- SUB A,(HL) (R238). -/
def execSubHl (s : State) : Exec := .next (s.aluHl .sub)

/-- SUB A,n8 (R239). -/
def execSubN (n : Byte) (s : State) : Exec := .next (s.aluImm .sub n)

/-- SBC A,r (R240). -/
def execSbcR (src : Reg8) (s : State) : Exec := .next (s.aluReg .sbc src)

/-- SBC A,(HL) (R241). -/
def execSbcHl (s : State) : Exec := .next (s.aluHl .sbc)

/-- SBC A,n8 (R242). -/
def execSbcN (n : Byte) (s : State) : Exec := .next (s.aluImm .sbc n)

/-- AND A,r (R243). -/
def execAndR (src : Reg8) (s : State) : Exec := .next (s.aluReg .and src)

/-- AND A,(HL) (R244). -/
def execAndHl (s : State) : Exec := .next (s.aluHl .and)

/-- AND A,n8 (R245). -/
def execAndN (n : Byte) (s : State) : Exec := .next (s.aluImm .and n)

/-- XOR A,r (R246). -/
def execXorR (src : Reg8) (s : State) : Exec := .next (s.aluReg .xor src)

/-- XOR A,(HL) (R247). -/
def execXorHl (s : State) : Exec := .next (s.aluHl .xor)

/-- XOR A,n8 (R248). -/
def execXorN (n : Byte) (s : State) : Exec := .next (s.aluImm .xor n)

/-- OR A,r (R249). -/
def execOrR (src : Reg8) (s : State) : Exec := .next (s.aluReg .or src)

/-- OR A,(HL) (R250). -/
def execOrHl (s : State) : Exec := .next (s.aluHl .or)

/-- OR A,n8 (R251). -/
def execOrN (n : Byte) (s : State) : Exec := .next (s.aluImm .or n)

/-- CP A,r (R252). -/
def execCpR (src : Reg8) (s : State) : Exec := .next (s.aluReg .cp src)

/-- CP A,(HL) (R253). -/
def execCpHl (s : State) : Exec := .next (s.aluHl .cp)

/-- CP A,n8 (R254). -/
def execCpN (n : Byte) (s : State) : Exec := .next (s.aluImm .cp n)

/-! ### INC and DEC -/

/-- INC r (R255). -/
def execIncR (r : Reg8) (s : State) : Exec :=
  let res := incByte (s.regs.get r) s.regs.f
  .next (((s.advance 1#16).setReg r res.1).setFlags res.2)

/-- INC (HL) (R256): read, write, then the flags. -/
def execIncHl (s : State) : Exec :=
  let m := (s.advance 1#16).memRead s.regs.hl
  let res := incByte m.1 s.regs.f
  ((m.2.memWrite (s.site .incHl) s.regs.hl res.1).thenDo fun t => t.setFlags res.2).outcome

/-- DEC r (R257). -/
def execDecR (r : Reg8) (s : State) : Exec :=
  let res := decByte (s.regs.get r) s.regs.f
  .next (((s.advance 1#16).setReg r res.1).setFlags res.2)

/-- DEC (HL) (R258): read, write, then the flags. -/
def execDecHl (s : State) : Exec :=
  let m := (s.advance 1#16).memRead s.regs.hl
  let res := decByte m.1 s.regs.f
  ((m.2.memWrite (s.site .decHl) s.regs.hl res.1).thenDo fun t => t.setFlags res.2).outcome

end Sys2Proof.Machine
end

