-- ==== Sys2Proof/Machine/CbPage.lean ====
section
/-! DEFINITION. The CB page (46_cb_prefixed.md R350 to R372) and the prefix (30_encoding.md R146). -/

namespace Sys2Proof.Machine

/-! ### The operand forms (R350) -/

/-- A rotate or shift of a register. -/
def State.rotReg (s : State) (op : RotOp) (r : Reg8) : State :=
  let res := rot op (s.regs.get r) s.regs.f.c
  ((s.advance 2#16).setReg r res.1).setFlags (rotFlags res)

/-- A rotate or shift of the byte at HL: the read, the flags, the write (R352; log 7). -/
def State.rotHl (s : State) (site : FaultSite) (op : RotOp) : Flow :=
  let m := (s.advance 2#16).memRead s.regs.hl
  let res := rot op m.1 s.regs.f.c
  (m.2.setFlags (rotFlags res)).memWrite site s.regs.hl res.1

/-- A change of the byte at HL that writes no flag: the read, the write. -/
def State.modifyHl (s : State) (site : FaultSite) (g : Byte → Byte) : Flow :=
  let m := (s.advance 2#16).memRead s.regs.hl
  m.2.memWrite site s.regs.hl (g m.1)

/-- RLC r (R351). -/
def execRlcR (r : Reg8) (s : State) : Exec := .next (s.rotReg .rlc r)

/-- RLC (HL) (R352). -/
def execRlcHl (s : State) : Exec := (s.rotHl (s.site .rlcHl) .rlc).outcome

/-- RRC r (R353). -/
def execRrcR (r : Reg8) (s : State) : Exec := .next (s.rotReg .rrc r)

/-- RRC (HL) (R354). -/
def execRrcHl (s : State) : Exec := (s.rotHl (s.site .rrcHl) .rrc).outcome

/-- RL r (R355). -/
def execRlR (r : Reg8) (s : State) : Exec := .next (s.rotReg .rl r)

/-- RL (HL) (R356). -/
def execRlHl (s : State) : Exec := (s.rotHl (s.site .rlHl) .rl).outcome

/-- RR r (R357). -/
def execRrR (r : Reg8) (s : State) : Exec := .next (s.rotReg .rr r)

/-- RR (HL) (R358). -/
def execRrHl (s : State) : Exec := (s.rotHl (s.site .rrHl) .rr).outcome

/-- SLA r (R359). -/
def execSlaR (r : Reg8) (s : State) : Exec := .next (s.rotReg .sla r)

/-- SLA (HL) (R360). -/
def execSlaHl (s : State) : Exec := (s.rotHl (s.site .slaHl) .sla).outcome

/-- SRA r (R361). -/
def execSraR (r : Reg8) (s : State) : Exec := .next (s.rotReg .sra r)

/-- SRA (HL) (R362). -/
def execSraHl (s : State) : Exec := (s.rotHl (s.site .sraHl) .sra).outcome

/-- SWAP r (R363). -/
def execSwapR (r : Reg8) (s : State) : Exec := .next (s.rotReg .swap r)

/-- SWAP (HL) (R364). -/
def execSwapHl (s : State) : Exec := (s.rotHl (s.site .swapHl) .swap).outcome

/-- SRL r (R365). -/
def execSrlR (r : Reg8) (s : State) : Exec := .next (s.rotReg .srl r)

/-- SRL (HL) (R366). -/
def execSrlHl (s : State) : Exec := (s.rotHl (s.site .srlHl) .srl).outcome

/-- BIT b,r (R367). -/
def execBitR (b : BitVec 3) (r : Reg8) (s : State) : Exec :=
  .next ((s.advance 2#16).setFlags (bitTest b (s.regs.get r) s.regs.f))

/-- BIT b,(HL) (R368): no write. -/
def execBitHl (b : BitVec 3) (s : State) : Exec :=
  let m := (s.advance 2#16).memRead s.regs.hl
  .next (m.2.setFlags (bitTest b m.1 s.regs.f))

/-- RES b,r (R369). -/
def execResR (b : BitVec 3) (r : Reg8) (s : State) : Exec :=
  .next ((s.advance 2#16).setReg r (bitClear b (s.regs.get r)))

/-- RES b,(HL) (R370). -/
def execResHl (b : BitVec 3) (s : State) : Exec :=
  (s.modifyHl (s.site (.resHl b)) (bitClear b)).outcome

/-- SET b,r (R371). -/
def execSetR (b : BitVec 3) (r : Reg8) (s : State) : Exec :=
  .next ((s.advance 2#16).setReg r (bitSet b (s.regs.get r)))

/-- SET b,(HL) (R372). -/
def execSetHl (b : BitVec 3) (s : State) : Exec :=
  (s.modifyHl (s.site (.setHl b)) (bitSet b)).outcome

/-! ### The prefix -/

/-- The rotates and shifts by `yyy` and selector (R152). -/
def execRotRow (y : BitVec 3) (z : Option Reg8) (s : State) : Exec :=
  match y.toNat, z with
  | 0, some r => execRlcR r s
  | 0, none => execRlcHl s
  | 1, some r => execRrcR r s
  | 1, none => execRrcHl s
  | 2, some r => execRlR r s
  | 2, none => execRlHl s
  | 3, some r => execRrR r s
  | 3, none => execRrHl s
  | 4, some r => execSlaR r s
  | 4, none => execSlaHl s
  | 5, some r => execSraR r s
  | 5, none => execSraHl s
  | 6, some r => execSwapR r s
  | 6, none => execSwapHl s
  | _, some r => execSrlR r s
  | _, none => execSrlHl s

/-- PREFIX CB (30_encoding.md R146): execute the CB-page instruction `op2`. -/
def execPrefixCb (op2 : Byte) (s : State) : Exec :=
  let y : BitVec 3 := op2.extractLsb' 3 3
  let z : Option Reg8 := Reg8.ofCode (op2.extractLsb' 0 3)
  match (op2.extractLsb' 6 2).toNat, z with
  | 0, _ => execRotRow y z s
  | 1, some r => execBitR y r s
  | 1, none => execBitHl y s
  | 2, some r => execResR y r s
  | 2, none => execResHl y s
  | _, some r => execSetR y r s
  | _, none => execSetHl y s

end Sys2Proof.Machine
end

