-- ==== Sys2Proof/Machine/Control.lean ====
section
/-! DEFINITION. Control transfers (44_control.md R290 to R301). -/

namespace Sys2Proof.Machine

/-- A taken absolute jump: `PC <- a; Internal(4)`. -/
def State.jump (s : State) (a : Word) : State := (s.setPc a).spend 4

/-- A taken relative jump: `PC <- (next + e) mod 65536; Internal(4)`, PC being at `next`. -/
def State.jumpBy (s : State) (e : Byte) : State := s.jump (s.regs.pc + sext16 e)

/-- A taken call: `Internal(4); Push16(next); PC <- a`, PC being at `next`. -/
def State.call (s : State) (site : FaultSite) (a : Word) : Flow :=
  ((s.spend 4).push16 site s.regs.pc).thenDo fun t => t.setPc a

/-- A taken return: `PC <- Pop16(); Internal(4)`. -/
def State.popPc (s : State) : State :=
  let p := s.pop16
  (p.2.setPc p.1).spend 4

/-- JP a16 (R291). -/
def execJpA16 (a : Word) (s : State) : Exec := .next ((s.advance 3#16).jump a)

/-- JP cc,a16 (R292). -/
def execJpCc (cc : Cond) (a : Word) (s : State) : Exec :=
  .next (if s.regs.f.holds cc then (s.advance 3#16).jump a else s.advance 3#16)

/-- JP HL (R293). -/
def execJpHl (s : State) : Exec := .next ((s.advance 1#16).setPc s.regs.hl)

/-- JR e8 (R294). -/
def execJrE (e : Byte) (s : State) : Exec := .next ((s.advance 2#16).jumpBy e)

/-- JR cc,e8 (R295). -/
def execJrCc (cc : Cond) (e : Byte) (s : State) : Exec :=
  .next (if s.regs.f.holds cc then (s.advance 2#16).jumpBy e else s.advance 2#16)

/-- CALL a16 (R296). -/
def execCallA16 (a : Word) (s : State) : Exec :=
  ((s.advance 3#16).call (s.site (.callA16 a)) a).outcome

/-- CALL cc,a16 (R297). -/
def execCallCc (cc : Cond) (a : Word) (s : State) : Exec :=
  if s.regs.f.holds cc then ((s.advance 3#16).call (s.site (.callCc cc a)) a).outcome
  else .next (s.advance 3#16)

/-- RET (R298). -/
def execRet (s : State) : Exec := .next (s.advance 1#16).popPc

/-- RET cc (R299): 4 extra cycles even when not taken (90_conflicts.md C10). -/
def execRetCc (cc : Cond) (s : State) : Exec :=
  let s1 := (s.advance 1#16).spend 4
  .next (if s.regs.f.holds cc then s1.popPc else s1)

/-- RETI (R300). -/
def execReti (s : State) : Exec := .next (s.advance 1#16).returnFromInterrupt

/-- The target of RST: `8 * t` (R301). -/
def rstVector (t : BitVec 3) : Word := 0#10 ++ t ++ 0b000#3

/-- RST vec (R301). -/
def execRst (t : BitVec 3) (s : State) : Exec :=
  ((s.advance 1#16).call (s.site (.rst t)) (rstVector t)).outcome

end Sys2Proof.Machine
end

