-- ==== Sys2Proof/Machine/Load16.lean ====
section
/-! DEFINITION. 16-bit loads and the stack instructions (42_load16_stack.md R261 to R268). -/

namespace Sys2Proof.Machine

/-- LD rr,n16 (R261). -/
def execLdRrN16 (rr : Reg16) (n : Word) (s : State) : Exec :=
  .next ((s.advance 3#16).setReg16 rr n)

/-- LD (a16),SP (R262). -/
def execLdA16Sp (a : Word) (s : State) : Exec :=
  ((s.advance 3#16).memWrite16 (s.site (.ldA16Sp a)) a s.regs.sp).outcome

/-- LD SP,HL (R263). -/
def execLdSpHl (s : State) : Exec :=
  .next (((s.advance 1#16).setSp s.regs.hl).spend 4)

/-- LD HL,SP+e8 (R264). -/
def execLdHlSpE (e : Byte) (s : State) : Exec :=
  let res := addSigned s.regs.sp e
  .next ((((s.advance 2#16).setReg16 .hl res.1).setFlags res.2).spend 4)

/-- PUSH rr (R265). -/
def execPushRr (rr : StackPair) (s : State) : Exec :=
  (((s.advance 1#16).spend 4).push16 (s.site (.pushRr rr)) (s.regs.get16 (pairOf rr))).outcome

/-- PUSH AF (R266). -/
def execPushAf (s : State) : Exec :=
  (((s.advance 1#16).spend 4).push16 (s.site .pushAf) s.regs.af).outcome

/-- POP rr (R267). -/
def execPopRr (rr : StackPair) (s : State) : Exec :=
  let p := (s.advance 1#16).pop16
  .next (p.2.setReg16 (pairOf rr) p.1)

/-- POP AF (R268). -/
def execPopAf (s : State) : Exec :=
  let p := (s.advance 1#16).pop16
  .next (p.2.setRegs (p.2.regs.setAf p.1))

end Sys2Proof.Machine
end

