-- ==== Sys2Proof/Machine/Load8.lean ====
section
/-! DEFINITION. 8-bit loads (40_load8.md R200 to R218). A meaning starts with the instruction's bytes fetched and PC at
its first byte; `advance` is `PC <- next` (30_encoding.md R144, log 8). -/

namespace Sys2Proof.Machine

/-- Read the byte at an address into a register. -/
def State.loadFrom (s : State) (a : Word) (dst : Reg8) : State :=
  let m := s.memRead a
  m.2.setReg dst m.1

/-- LD r,r' (R200). -/
def execLdRR (dst src : Reg8) (s : State) : Exec :=
  .next ((s.advance 1#16).setReg dst (s.regs.get src))

/-- LD r,(HL) (R201). -/
def execLdRHl (dst : Reg8) (s : State) : Exec :=
  .next ((s.advance 1#16).loadFrom s.regs.hl dst)

/-- LD (HL),r (R202). -/
def execLdHlR (src : Reg8) (s : State) : Exec :=
  ((s.advance 1#16).memWrite (s.site (.ldHlR src)) s.regs.hl (s.regs.get src)).outcome

/-- LD r,n8 (R203). -/
def execLdRN (r : Reg8) (n : Byte) (s : State) : Exec :=
  .next ((s.advance 2#16).setReg r n)

/-- LD (HL),n8 (R204). -/
def execLdHlN (n : Byte) (s : State) : Exec :=
  ((s.advance 2#16).memWrite (s.site (.ldHlN n)) s.regs.hl n).outcome

/-- LD A,(BC) (R205). -/
def execLdABc (s : State) : Exec :=
  .next ((s.advance 1#16).loadFrom s.regs.bc .a)

/-- LD A,(DE) (R206). -/
def execLdADe (s : State) : Exec :=
  .next ((s.advance 1#16).loadFrom s.regs.de .a)

/-- LD (BC),A (R207). -/
def execLdBcA (s : State) : Exec :=
  ((s.advance 1#16).memWrite (s.site .ldBcA) s.regs.bc s.regs.a).outcome

/-- LD (DE),A (R208). -/
def execLdDeA (s : State) : Exec :=
  ((s.advance 1#16).memWrite (s.site .ldDeA) s.regs.de s.regs.a).outcome

/-- LD A,(HL+) (R209). -/
def execLdAHlInc (s : State) : Exec :=
  .next (((s.advance 1#16).loadFrom s.regs.hl .a).setReg16 .hl (s.regs.hl + 1#16))

/-- LD A,(HL-) (R210). -/
def execLdAHlDec (s : State) : Exec :=
  .next (((s.advance 1#16).loadFrom s.regs.hl .a).setReg16 .hl (s.regs.hl - 1#16))

/-- LD (HL+),A (R211): HL changes after the write. -/
def execLdHlIncA (s : State) : Exec :=
  (((s.advance 1#16).memWrite (s.site .ldHlIncA) s.regs.hl s.regs.a).thenDo
    fun t => t.setReg16 .hl (s.regs.hl + 1#16)).outcome

/-- LD (HL-),A (R212): HL changes after the write. -/
def execLdHlDecA (s : State) : Exec :=
  (((s.advance 1#16).memWrite (s.site .ldHlDecA) s.regs.hl s.regs.a).thenDo
    fun t => t.setReg16 .hl (s.regs.hl - 1#16)).outcome

/-- LDH (a8),A (R213). -/
def execLdhA8A (n : Byte) (s : State) : Exec :=
  ((s.advance 2#16).memWrite (s.site (.ldhA8A n)) (highPage n) s.regs.a).outcome

/-- LDH A,(a8) (R214). -/
def execLdhAA8 (n : Byte) (s : State) : Exec :=
  .next ((s.advance 2#16).loadFrom (highPage n) .a)

/-- LDH (C),A (R215). -/
def execLdhCA (s : State) : Exec :=
  ((s.advance 1#16).memWrite (s.site .ldhCA) (highPage s.regs.c) s.regs.a).outcome

/-- LDH A,(C) (R216). -/
def execLdhAC (s : State) : Exec :=
  .next ((s.advance 1#16).loadFrom (highPage s.regs.c) .a)

/-- LD (a16),A (R217). -/
def execLdA16A (a : Word) (s : State) : Exec :=
  ((s.advance 3#16).memWrite (s.site (.ldA16A a)) a s.regs.a).outcome

/-- LD A,(a16) (R218). -/
def execLdAA16 (a : Word) (s : State) : Exec :=
  .next ((s.advance 3#16).loadFrom a .a)

end Sys2Proof.Machine
end

