-- ==== Sys2Proof/Machine/Misc.lean ====
section
/-! DEFINITION. Miscellaneous, flag and system instructions and the invalid opcodes (45_misc_system.md R320 to R333). -/

namespace Sys2Proof.Machine

/-- NOP (R320). -/
def execNop (s : State) : Exec := .next (s.advance 1#16)

/-- HALT (R321). -/
def execHalt (s : State) : Exec := .next { s.advance 1#16 with halted := true }

/-- The speed switch of STOP, if CGB and armed (R322). -/
def State.speedSwitch (s : State) : State :=
  if s.cgb && s.key1Prepare then { s with key1Speed := !s.key1Speed, key1Prepare := false } else s

/-- STOP (R322): the second byte was fetched and is ignored. -/
def execStop (_n : Byte) (s : State) : Exec := .next (s.advance 2#16).speedSwitch

/-- DI (R323). -/
def execDi (s : State) : Exec := .next { s.advance 1#16 with ime := false, eiPending := false }

/-- EI (R324): IME itself is not changed, and `eiPending` is set even where IME is already 1 (log 25). -/
def execEi (s : State) : Exec := .next { s.advance 1#16 with eiPending := true }

/-- DAA (R325). -/
def execDaa (s : State) : Exec :=
  let res := daa s.regs.a s.regs.f
  .next (((s.advance 1#16).setReg .a res.1).setFlags res.2)

/-- CPL (R326). -/
def execCpl (s : State) : Exec :=
  .next (((s.advance 1#16).setReg .a (s.regs.a ^^^ 0xFF#8)).setFlags { s.regs.f with n := true, h := true })

/-- SCF (R327). -/
def execScf (s : State) : Exec :=
  .next ((s.advance 1#16).setFlags { s.regs.f with n := false, h := false, c := true })

/-- CCF (R328). -/
def execCcf (s : State) : Exec :=
  .next ((s.advance 1#16).setFlags { s.regs.f with n := false, h := false, c := !s.regs.f.c })

/-- A rotate of A by one of the operations of the CB page's table, with Z cleared (R329 to R332). -/
def State.rotA (s : State) (op : RotOp) : State :=
  let res := rot op s.regs.a s.regs.f.c
  ((s.advance 1#16).setReg .a res.1).setFlags (rotAFlags res)

/-- RLCA (R329). -/
def execRlca (s : State) : Exec := .next (s.rotA .rlc)

/-- RLA (R330). -/
def execRla (s : State) : Exec := .next (s.rotA .rl)

/-- RRCA (R331). -/
def execRrca (s : State) : Exec := .next (s.rotA .rrc)

/-- RRA (R332). -/
def execRra (s : State) : Exec := .next (s.rotA .rr)

/-! ### The eleven invalid opcodes (R333): each raises CoreFault(InvalidOpcode) -/

/-- INVALID 0xD3 (R333). -/
def execInvalidD3 (s : State) : Exec := .next (s.raiseInvalid .invalidD3)

/-- INVALID 0xDB (R333). -/
def execInvalidDB (s : State) : Exec := .next (s.raiseInvalid .invalidDB)

/-- INVALID 0xDD (R333). -/
def execInvalidDD (s : State) : Exec := .next (s.raiseInvalid .invalidDD)

/-- INVALID 0xE3 (R333). -/
def execInvalidE3 (s : State) : Exec := .next (s.raiseInvalid .invalidE3)

/-- INVALID 0xE4 (R333). -/
def execInvalidE4 (s : State) : Exec := .next (s.raiseInvalid .invalidE4)

/-- INVALID 0xEB (R333). -/
def execInvalidEB (s : State) : Exec := .next (s.raiseInvalid .invalidEB)

/-- INVALID 0xEC (R333). -/
def execInvalidEC (s : State) : Exec := .next (s.raiseInvalid .invalidEC)

/-- INVALID 0xED (R333). -/
def execInvalidED (s : State) : Exec := .next (s.raiseInvalid .invalidED)

/-- INVALID 0xF4 (R333). -/
def execInvalidF4 (s : State) : Exec := .next (s.raiseInvalid .invalidF4)

/-- INVALID 0xFC (R333). -/
def execInvalidFC (s : State) : Exec := .next (s.raiseInvalid .invalidFC)

/-- INVALID 0xFD (R333). -/
def execInvalidFD (s : State) : Exec := .next (s.raiseInvalid .invalidFD)

end Sys2Proof.Machine
end

