-- ==== Sys2Proof/Machine/Fetch.lean ====
section
/-! DEFINITION. Fetching an instruction's bytes (30_encoding.md R143), and placing bytes where a fetch reads them. -/

namespace Sys2Proof.Machine

/-- The fetch of `len` bytes at PC: the opcode, then the immediate bytes in address order, each a bus read (R143). Bytes
that are not fetched are given as 0. -/
def State.fetchBytes (s : State) (len : Nat) : (Byte × Byte) × State :=
  match len with
  | 1 => ((0#8, 0#8), s)
  | 2 =>
    let r1 := s.memRead (s.regs.pc + 1#16)
    ((r1.1, 0#8), r1.2)
  | _ =>
    let r1 := s.memRead (s.regs.pc + 1#16)
    let r2 := r1.2.memRead (s.regs.pc + 2#16)
    ((r1.1, r2.1), r2.2)

/-- Fetch and decode: the instruction at PC, and the state after its bus reads, PC still at its first byte (R143). -/
def State.fetch (s : State) : Instr × State :=
  let op := s.memRead s.regs.pc
  let imm := op.2.fetchBytes (lengthOf op.1)
  (decodeOp op.1 imm.1.1 imm.1.2, imm.2)

/-! ### Placing an instruction (log 12) -/

/-- The physical byte whose value a bus read at an address shows, if there is one. -/
def State.shownCell (s : State) (a : Word) : Option Cell :=
  match route a with
  | .romFixed => if s.bootShown a then some (.boot a.toNat) else some (.rom a.toNat)
  | .romWindow =>
    let off := s.mbc.windowBank * Config.romBankSize + (a.toNat - 0x4000)
    if off < Config.romCapacity then some (.rom off) else none
  | _ => s.storedCell a

/-- Make a fetch at an address read a byte: in the store that the address shows, or, where the address is cheated or
shows no store, in the cheat overlay. -/
def State.placeByte (s : State) (a : Word) (v : Byte) : State :=
  match s.cheats.get? a.toNat, s.shownCell a with
  | none, some c => s.writeCell c v
  | _, _ => { s with cheats := s.cheats.write none a.toNat v }

/-- Make the next step fetch at PC: not faulted, not halted, no breakpoint at PC. -/
def State.readyToFetch (s : State) : State :=
  { s with
    fault := none
    halted := false
    breakpoints := s.breakpoints.filter fun p => decide (p ≠ s.regs.pc) }

/-- Place the three bytes of a table word at PC, PC + 1, PC + 2, and make the next step fetch them. -/
def State.placeWord (s : State) (nbits w : Nat) : State :=
  let t := tableBytes nbits w
  let pc := s.regs.pc
  (((s.readyToFetch.placeByte pc t.1).placeByte (pc + 1#16) t.2.1).placeByte (pc + 2#16) t.2.2)

end Sys2Proof.Machine
end

