-- ==== Sys2Proof/Machine/Phases.lean ====
section
/-! DEFINITION. The phases of the step around an instruction (60_exceptions.md R430). -/

namespace Sys2Proof.Machine

/-- Between two steps: the attempts that collaborators make before this step (00_scope.md R11, 60_exceptions.md R461;
log 10). -/
def State.takeArrivals (s : State) : State :=
  match s.arrivals with
  | [] => s
  | now :: later => State.attemptAll { s with arrivals := later } now

/-- Phase 1: a pending EI takes effect. The note that the last step stopped is dropped (log 9). -/
def State.activateEi (s : State) : State :=
  { s with ime := s.ime || s.eiPending, eiPending := false, stopped := false }

/-- Phase 2: is PC a breakpoint (R450)? -/
def State.atBreakpoint (s : State) : Bool := s.breakpoints.contains s.regs.pc

/-- Phase 2: the step returns `Stopped` (R450; log 9). -/
def State.stopAtBreakpoint (s : State) : State := { s with stopped := true }

/-- Phase 3 of a halted step: 4 cycles and no bus access. -/
def State.idle (s : State) : State := s.spend 4

/-- The end of phase 3: the instruction is counted (10_state.md R45). -/
def State.countInstr (s : State) : State := { s with totalI := s.totalI + 1 }

/-- Phase 4: the Timer is advanced by the debt. -/
def State.payTimer (s : State) : State := { s.timerAdvance s.timerDebt with timerDebt := 0 }

/-- Phase 5: any request wakes a halted CPU (90_conflicts.md C7). -/
def State.wake (s : State) : State :=
  if s.halted && s.requested != 0#5 then { s with halted := false } else s

/-- Phase 6: at most one interrupt is dispatched (R414 to R416). -/
def State.service (s : State) : State :=
  if s.ime then
    match firstSource s.pending with
    | some i => (s.takeInterrupt i).state
    | none => s
  else s

/-- Phases 4 to 6. -/
def State.finishStep (s : State) : State := s.payTimer.wake.service

/-- What follows an instruction: nothing if it raised CoreFault (R400), else the count and phases 4 to 6. -/
def State.afterInstr (s : State) : State :=
  if s.fault.isSome then s else s.countInstr.finishStep

end Sys2Proof.Machine
end

