-- ==== Sys2Proof/Machine/Step.lean ====
section
/-! DEFINITION. One step (60_exceptions.md R430), in three outcomes, and the host's placing of an instruction. -/

namespace Sys2Proof.Machine

/-- Phases 0 to 6 of R430. -/
def stepPhases (s : State) : Host.Outcome State Fault Refusal :=
  match s.fault with
  | some f => .fault (.coreFault f)
  | none =>
    if s.activateEi.atBreakpoint then .next s.activateEi.stopAtBreakpoint
    else if s.activateEi.halted then .next s.activateEi.idle.finishStep
    else
      match exec s.activateEi.fetch.1 s.activateEi.fetch.2 with
      | .next t => .next t.afterInstr
      | .fault f => .fault f
      | .refused r => .refused r

/-- One step: what the environment does first, then R430. -/
def step (s : State) : Host.Outcome State Fault Refusal := stepPhases s.takeArrivals

/-- The state with an instruction of the opcode table stored where `step` fetches its next instruction (log 12). -/
def State.withFetchWord (s : State) (nbits w : Nat) : State := s.placeWord nbits w

end Sys2Proof.Machine
end

