-- ==== Sys2Proof/Machine/HostOps.lean ====
section
/-! DEFINITION. The host operations (70_reset_and_hazards.md R500, R510 to R513; 60_exceptions.md R450): functions from
state to state that act between two steps; the program cannot reach them. The persistent store is outside (log 11). -/

namespace Sys2Proof.Machine

/-- The registers after reset with a boot ROM (10_state.md R50). -/
def Regs.zero : Regs where
  a := 0#8
  b := 0#8
  c := 0#8
  d := 0#8
  e := 0#8
  h := 0#8
  l := 0#8
  f := ⟨false, false, false, false⟩
  sp := 0#16
  pc := 0#16

/-- The controller's `reset()` (20_memory.md R109): its fields go to the values of R50, but `dirty` stays, since only a
flush and an insertion clear it (20_memory.md R128; 92_eei_decisions.md D24; log 17). After an insertion it is 0 (R510),
because that resets a new controller. -/
def Mbc.reset (m : Mbc) : Mbc := { Mbc.atReset m.kind m.romBanks with dirty := m.dirty }

/-- Reset (R500): every field of R50 to its value, in the column that the boot image selects; the stores, the
parameters, the debug sets and the count of dirty bytes (log 17) stay. -/
def State.resetOp (s : State) : State :=
  { s with
    regs := if s.boot.isSome then Regs.zero else Regs.postBoot
    bootEnabled := s.boot.isSome
    cycles := 0
    totalI := 0
    ime := false
    eiPending := false
    halted := false
    fault := none
    requested := 0#5
    enabled := 0#5
    timer := Timer.atReset
    timerDebt := 0
    wramBank := 1#3
    key1Prepare := false
    key1Speed := false
    mbc := s.mbc.reset
    stopped := false }

/-- A byte of a cartridge image: 0x00 past its end (R510). -/
def imageByte (img : List Byte) (off : Nat) : Byte := img.getD off 0#8

/-- External RAM loaded from a persisted image: zeroed, then the image copied in (R511). -/
def eramOfImage (img : List Byte) : Memory :=
  Memory.ofBytes (some 0xFF#8) 0
    (img.take Config.eramCapacity ++ List.replicate (Config.eramCapacity - img.length) 0#8)

/-- Insert a cartridge, given what the persistent store answers for its title (R510, R511; logs 11, 26); an image over
`ROM_CAPACITY` is refused (93_implementation_defined.md U15). Work RAM is one store of 8 banks that an insertion leaves
alone, so what banks 2 to 7 held under a CGB cartridge is there again under a later one (log 27). -/
def State.insertCartridge (s : State) (img : List Byte) (saved : Option (List Byte)) : Option State :=
  if img.length ≤ Config.romCapacity then
    let kind := mbcKindOf (imageByte img 0x147)
    let s1 : State :=
      { s with
        rom := Memory.ofBytes (some 0#8) 0 img
        mbc := Mbc.atReset kind (romBanksOf (imageByte img 0x148))
        title := (List.range 15).map fun k => imageByte img (0x134 + k)
        cgb := cgbOf (imageByte img 0x143) }
    let s2 := s1.resetOp
    match kind, saved with
    | .null, _ => some s2
    | _, none => some s2
    | _, some ram => some { s2 with eram := eramOfImage ram }
  else none

/-- Remove the cartridge (R512): NullMBC, and 0xFF in the first two ROM banks; the CPU goes on. -/
def State.removeCartridge (s : State) : State :=
  { s with
    mbc := { s.mbc with kind := .null, romBank := 1#9 }
    rom := Memory.ofBytes (some 0#8) 0 (List.replicate 0x8000 0xFF#8)
      ++ s.rom.filter fun kv => decide (0x8000 ≤ kv.1) }

/-- Flush external RAM (R513): the image handed to the persistent store with its title, if any, and the state after. The
title is the fifteen raw header bytes, not a decoded string (log 26). -/
def State.flushSram (s : State) : Option (List Byte × Memory) × State :=
  if s.mbc.dirty = 0 then (none, s)
  else (some (s.title, s.eram), { s with mbc := { s.mbc with dirty := 0 } })

/-- `setBreakpoint(addr)` (60_exceptions.md R450). -/
def State.setBreakpoint (s : State) (a : Word) : State :=
  if s.breakpoints.contains a then s else { s with breakpoints := a :: s.breakpoints }

/-- `clearBreakpoint(addr)` (60_exceptions.md R450). -/
def State.clearBreakpoint (s : State) (a : Word) : State :=
  { s with breakpoints := s.breakpoints.filter fun p => decide (p ≠ a) }

/-- `toggleBreakpoint(addr)` (60_exceptions.md R450). -/
def State.toggleBreakpoint (s : State) (a : Word) : State :=
  if s.breakpoints.contains a then s.clearBreakpoint a else s.setBreakpoint a

/-- Put an entry into the cheat overlay (60_exceptions.md R451). -/
def State.setCheat (s : State) (a : Word) (v : Byte) : State :=
  { s with cheats := s.cheats.write none a.toNat v }

/-- Take an entry out of the cheat overlay (60_exceptions.md R451). -/
def State.clearCheat (s : State) (a : Word) : State := { s with cheats := s.cheats.erase a.toNat }

end Sys2Proof.Machine
end

