-- ==== Sys2Proof/Safety.lean ====
section
/-! DEFINITION. The terms that claims use: the invariant of the machine, and what an instruction leaves alone. -/

namespace Sys2Proof.Machine

/-- The bounds on registers that are wider in the model than their legal values (10_state.md R36, R37, R38, R40;
20_memory.md R108, R126). -/
def State.fieldsWf (s : State) : Bool :=
  decide (s.wramBank ≠ 0#3)
    && decide (s.timer.divAcc < 256)
    && decide (s.timer.timaAcc < 1024)
    && (!s.bootEnabled || s.boot.isSome)
    && decide (s.mbc.romBanks = 0
      ∨ (2 ≤ s.mbc.romBanks ∧ s.mbc.romBanks ≤ 512 ∧ s.mbc.romBank.toNat < s.mbc.romBanks))

/-- The machine's invariant: every store canonical, every bounded field within its bounds. -/
def State.wf (s : State) : Bool := s.storesWf && s.fieldsWf

/-- The machine can execute an instruction now: not faulted, not halted, not at a breakpoint (R430 phases 0, 2, 3). -/
def State.canFetch (s : State) : Prop :=
  s.fault = none ∧ s.halted = false ∧ s.breakpoints.contains s.regs.pc = false

/-- A run is safe where no CoreFault is stored. -/
def State.safe (s : State) : Prop := s.fault = none

/-- The state in which the meaning of `i` starts when a step runs it: its bytes fetched, 4 cycles each, and PC still at
its first byte (30_encoding.md R143; 20_memory.md R60; log 8). -/
def State.fetched (s : State) (i : Instr) : State := s.spend (4 * (encode i).length)

/-- `t` is `u` but for the register file, `k` more oracle draws and `n` more cycles. Every other field is equal: every
store, every special register, every parameter. -/
def State.butRegs (u t : State) (k n : Nat) : Prop := t = ((u.setRegs t.regs).drew k).spend n

/-- A read of any address answers in `t` as in `s`: the same byte, or the same oracle (a collaborator or a clock
register), whose byte is free. -/
def State.sameMemory (s t : State) : Prop := ∀ a, t.answer a = s.answer a

/-- The byte `v` was stored at `a`, if the map sends `a` to a store: the cell holds it, every other cell is as before,
every address that shows the cell and is not cheated reads `v`, and every address that does not show it reads as
before. -/
def State.byteStored (s t : State) (a : Word) (v : Byte) : Prop :=
  ∀ c, s.storedCell a = some c →
    t.readCell c = v ∧ (∀ d, d ≠ c → t.readCell d = s.readCell d)
    ∧ (∀ b, s.shownCell b = some c → s.cheats.get? b.toNat = none → t.answer b = .byte v)
    ∧ ∀ b, s.shownCell b ≠ some c → t.answer b = s.answer b

/-- The bytes `v` at `a` and then `w` at `b` were stored, if the map sends both addresses to stores: the cells hold them
(the later one where both are one cell), every other cell is as before, and every address that shows neither reads as
before. -/
def State.bytesStored (s t : State) (a : Word) (v : Byte) (b : Word) (w : Byte) : Prop :=
  ∀ c d, s.storedCell a = some c → s.storedCell b = some d →
    t.readCell d = w ∧ (c ≠ d → t.readCell c = v) ∧ (∀ e, e ≠ c → e ≠ d → t.readCell e = s.readCell e)
    ∧ ∀ x, s.shownCell x ≠ some c → s.shownCell x ≠ some d → t.answer x = s.answer x

/-- The general registers but those listed are as before. -/
def Regs.keep (r t : Regs) (written : List Reg8) : Prop := ∀ x, x ∉ written → t.get x = r.get x

/-- The word at SP, as `Pop16` reads it: the low byte first (42_load16_stack.md R260). -/
def State.poppedWord (s : State) : Word :=
  (s.answer (s.regs.sp + 1#16)).value (s.draws + (s.answer s.regs.sp).drawn) ++ s.peek s.regs.sp

/-- How many oracle bytes a `Pop16` draws. -/
def State.popDraws (s : State) : Nat := (s.answer s.regs.sp).drawn + (s.answer (s.regs.sp + 1#16)).drawn

end Sys2Proof.Machine
end

