-- ==== Sys2Proof/WellFormed.lean ====
section
/-! DEFINITION. Which terms of `Instr` are whole instructions. Every operand's range is in its type, so one check is
left: the prefix alone is not an instruction ("The prefix and its second byte form one instruction",
30_encoding.md R146), since the words `0xCB op2` are those of a row of the CB page (log 13). -/

namespace Sys2Proof

/-- Is the term the prefix row, which only decoding's first stage produces (R146)? -/
def Instr.isPrefix : Instr → Bool
  | .prefixCb _ => true
  | _ => false

/-- A whole instruction, one that decoding can answer. -/
def Instr.wellFormed (i : Instr) : Bool := !i.isPrefix

end Sys2Proof
end

