-- ==== Sys2Proof/Certificates/Slice0/Obligations.lean ====
section
/-! DEFINITION. The statements for the provers. The first part is the vocabulary: the spec's own tables written out
again on natural numbers, and the shapes in which an instruction runs. -/

namespace Sys2Proof.Claims

open Sys2Proof.Machine

/-! ### The spec's tables, on natural numbers -/

/-- A bit as a number. -/
def bit (b : Bool) : Nat := if b then 1 else 0

/-- A byte result with the flags of 41_alu8.md R230: Z from the result. -/
def row (r : Nat) (n h c : Bool) : Nat × Machine.Flags := (r, ⟨decide (r = 0), n, h, c⟩)

/-- The table of 41_alu8.md R230, for `a`, `x` below 256 and a carry `c`. -/
def aluRow (op : AluOp) (a x c : Nat) : Nat × Machine.Flags :=
  match op with
  | .add => row ((a + x) % 256) false (decide (a % 16 + x % 16 > 0xF)) (decide (a + x > 0xFF))
  | .adc => row ((a + x + c) % 256) false (decide (a % 16 + x % 16 + c > 0xF)) (decide (a + x + c > 0xFF))
  | .sub => row ((a + 256 - x) % 256) true (decide (a % 16 < x % 16)) (decide (a < x))
  | .sbc => row ((a + 512 - x - c) % 256) true (decide (a % 16 < x % 16 + c)) (decide (a < x + c))
  | .and => row (a &&& x) false true false
  | .xor => row (a ^^^ x) false false false
  | .or => row (a ||| x) false false false
  | .cp => row ((a + 256 - x) % 256) true (decide (a % 16 < x % 16)) (decide (a < x))

/-- The table of 46_cb_prefixed.md section 1, for `v` below 256 and a carry `c`: the result and the bit shifted out. -/
def rotRow (op : RotOp) (v c : Nat) : Nat × Bool :=
  match op with
  | .rlc => (v % 128 * 2 + v / 128, decide (v / 128 = 1))
  | .rrc => (v % 2 * 128 + v / 2, decide (v % 2 = 1))
  | .rl => (v % 128 * 2 + c, decide (v / 128 = 1))
  | .rr => (c * 128 + v / 2, decide (v % 2 = 1))
  | .sla => (v % 128 * 2, decide (v / 128 = 1))
  | .sra => (v / 128 * 128 + v / 2, decide (v % 2 = 1))
  | .swap => (v % 16 * 16 + v / 16, false)
  | .srl => (v / 2, decide (v % 2 = 1))

/-- The algorithm of 45_misc_system.md R325: A and Cy afterwards. -/
def daaRow (a : Nat) (f : Machine.Flags) : Nat × Bool :=
  if f.n = false then
    let first := f.c = true ∨ a > 0x99
    let a1 := if first then a + 0x60 else a
    let a2 := if f.h = true ∨ a % 16 > 0x09 then a1 + 0x06 else a1
    (a2 % 256, decide first)
  else
    let a1 := if f.c = true then a + 512 - 0x60 else a + 512
    let a2 := if f.h = true then a1 - 0x06 else a1
    (a2 % 256, f.c)

/-- The condition of 44_control.md R290. -/
def condTrue (f : Machine.Flags) : Cond → Prop
  | .nz => f.z = false
  | .z => f.z = true
  | .nc => f.c = false
  | .c => f.c = true

/-- `sext_16` (00_scope.md R15). -/
def signed (v : Byte) : Word := if v.toNat < 128 then v.setWidth 16 else v.setWidth 16 + 0xFF00#16

/-- The address 0xFF00 + n. -/
def page (n : Byte) : Word := 0xFF00#16 + n.setWidth 16

/-- Bits 7 to 0 of a word. -/
def low (w : Word) : Byte := w.setWidth 8

/-- Bits 15 to 8 of a word. -/
def high (w : Word) : Byte := (w >>> 8).setWidth 8

/-! ### What an instruction does to the registers -/

/-- F and SP as before, PC past an instruction of `len` bytes. -/
def flowsOn (r t : Regs) (len : Word) : Prop := t.f = r.f ∧ t.sp = r.sp ∧ t.pc = r.pc + len

/-- Register `x` takes `v`; everything else but PC is as before. -/
def setsReg (x : Reg8) (v : Byte) (len : Word) (r t : Regs) : Prop :=
  t.get x = v ∧ r.keep t [x] ∧ flowsOn r t len

/-- The pair or SP `p` takes `v`; the other pairs and A are as before. -/
def setsPair (p : Reg16) (v : Word) (len : Word) (r t : Regs) : Prop :=
  t.get16 p = v ∧ (∀ q, q ≠ p → t.get16 q = r.get16 q) ∧ t.a = r.a ∧ t.pc = r.pc + len

/-- The accumulator operation `op` on `x`, by the table of R230; CP writes no A. -/
def accumulates (op : AluOp) (x : Byte) (len : Word) (r t : Regs) : Prop :=
  let q := aluRow op r.a.toNat x.toNat (bit r.f.c)
  t.a.toNat = (if op = .cp then r.a.toNat else q.1) ∧ t.f = q.2 ∧ r.keep t [.a] ∧ t.sp = r.sp ∧ t.pc = r.pc + len

/-! ### How an instruction runs

`bytes` is the instruction's encoding; `cycles` is its whole cost, the fetch included; `s` is the state before the
fetch. -/

/-- It completes in the state `u` with the registers `regs`. -/
def runsTo (s : State) (i : Instr) (bytes : List Byte) (u : State) (cycles : Nat) (regs : Regs) : Prop :=
  encode i = bytes ∧ exec i (s.fetched i) = .next ((u.setRegs regs).spend cycles)

/-- It completes with no data access. -/
def runsOnRegs (s : State) (i : Instr) (bytes : List Byte) (cycles : Nat) (post : Regs → Regs → Prop) : Prop :=
  encode i = bytes ∧ ∃ t, exec i (s.fetched i) = .next t ∧ s.butRegs t 0 cycles ∧ s.sameMemory t ∧ post s.regs t.regs

/-- It completes with one read, at `a`, of the byte given to `post`. -/
def runsRead (s : State) (i : Instr) (bytes : List Byte) (a : Word) (cycles : Nat)
    (post : Byte → Regs → Regs → Prop) : Prop :=
  encode i = bytes ∧ ∃ t, exec i (s.fetched i) = .next t ∧ s.butRegs t (s.answer a).drawn cycles ∧ s.sameMemory t
    ∧ post (s.peek a) s.regs t.regs

/-- Where the bus accepts the write of `v` at `a`, it completes with that write. -/
def runsStore (s : State) (i : Instr) (bytes : List Byte) (a : Word) (v : Byte) (cycles : Nat)
    (post : Regs → Regs → Prop) : Prop :=
  encode i = bytes ∧ ∀ u, s.busWrite a v = some u → ∃ t, exec i (s.fetched i) = .next t ∧ u.butRegs t 0 cycles
    ∧ (s.wf = true → s.byteStored t a v) ∧ post s.regs t.regs

/-- Where the bus accepts the write of `g` of the byte read at `a`, it completes with that read and that write. -/
def runsUpdate (s : State) (i : Instr) (bytes : List Byte) (a : Word) (g : Byte → Byte) (cycles : Nat)
    (post : Byte → Regs → Regs → Prop) : Prop :=
  encode i = bytes ∧ ∀ u, s.busWrite a (g (s.peek a)) = some u → ∃ t, exec i (s.fetched i) = .next t
    ∧ u.butRegs t (s.answer a).drawn cycles ∧ (s.wf = true → s.byteStored t a (g (s.peek a)))
    ∧ post (s.peek a) s.regs t.regs

/-- Where the bus accepts the write of `v` at `a` and then of `w` at `b`, it completes with those writes. -/
def runsTwoStores (s : State) (i : Instr) (bytes : List Byte) (a : Word) (v : Byte) (b : Word) (w : Byte)
    (cycles : Nat) (post : Regs → Regs → Prop) : Prop :=
  encode i = bytes ∧ ∀ u1 u2, s.busWrite a v = some u1 → u1.busWrite b w = some u2 → ∃ t,
    exec i (s.fetched i) = .next t ∧ u2.butRegs t 0 cycles ∧ (s.wf = true → s.bytesStored t a v b w)
    ∧ post s.regs t.regs

/-- It pushes `v`: the high byte at SP - 1, then the low byte at SP - 2 (42_load16_stack.md R260). -/
def runsPush (s : State) (i : Instr) (bytes : List Byte) (v : Word) (cycles : Nat) (post : Regs → Regs → Prop) :
    Prop :=
  runsTwoStores s i bytes (s.regs.sp - 1#16) (hiByte v) (s.regs.sp - 2#16) (loByte v) cycles post

/-- It pops the word given to `post`; `u` is the state but for the registers and the cost of the two reads. -/
def runsPop (s : State) (i : Instr) (bytes : List Byte) (u : State) (cycles : Nat)
    (post : Word → Regs → Regs → Prop) : Prop :=
  encode i = bytes ∧ ∃ t, exec i (s.fetched i) = .next t ∧ u.butRegs t s.popDraws cycles ∧ s.sameMemory t
    ∧ post s.poppedWord s.regs t.regs

/-! ### Stores -/

/-- The first byte that an instruction stores, and where. -/
def firstStore (s : State) (i : Instr) : Option (Word × Byte) :=
  let r := s.regs
  let v := s.peek r.hl
  let push (w : Word) : Option (Word × Byte) := some (r.sp - 1#16, hiByte w)
  match i with
  | .ldHlR src => some (r.hl, r.get src)
  | .ldHlN n => some (r.hl, n)
  | .ldBcA => some (r.bc, r.a)
  | .ldDeA => some (r.de, r.a)
  | .ldHlIncA => some (r.hl, r.a)
  | .ldHlDecA => some (r.hl, r.a)
  | .ldhA8A n => some (page n, r.a)
  | .ldhCA => some (page r.c, r.a)
  | .ldA16A a => some (a, r.a)
  | .ldA16Sp a => some (a, loByte r.sp)
  | .incHl => some (r.hl, v + 1#8)
  | .decHl => some (r.hl, v - 1#8)
  | .rlcHl => some (r.hl, (rot .rlc v r.f.c).1)
  | .rrcHl => some (r.hl, (rot .rrc v r.f.c).1)
  | .rlHl => some (r.hl, (rot .rl v r.f.c).1)
  | .rrHl => some (r.hl, (rot .rr v r.f.c).1)
  | .slaHl => some (r.hl, (rot .sla v r.f.c).1)
  | .sraHl => some (r.hl, (rot .sra v r.f.c).1)
  | .swapHl => some (r.hl, (rot .swap v r.f.c).1)
  | .srlHl => some (r.hl, (rot .srl v r.f.c).1)
  | .resHl b => some (r.hl, bitClear b v)
  | .setHl b => some (r.hl, bitSet b v)
  | .pushRr rr => push (r.get16 (pairOf rr))
  | .pushAf => push (r.a ++ r.f.toByte)
  | .callA16 _ => push (r.pc + 3#16)
  | .callCc cc _ => if r.f.holds cc then push (r.pc + 3#16) else none
  | .rst _ => push (r.pc + 1#16)
  | _ => none

/-- The second byte that an instruction stores, and where. -/
def secondStore (s : State) (i : Instr) : Option (Word × Byte) :=
  let r := s.regs
  let push (w : Word) : Option (Word × Byte) := some (r.sp - 2#16, loByte w)
  match i with
  | .ldA16Sp a => some (a + 1#16, hiByte r.sp)
  | .pushRr rr => push (r.get16 (pairOf rr))
  | .pushAf => push (r.a ++ r.f.toByte)
  | .callA16 _ => push (r.pc + 3#16)
  | .callCc cc _ => if r.f.holds cc then push (r.pc + 3#16) else none
  | .rst _ => push (r.pc + 1#16)
  | _ => none

/-- May the instruction store, in some state? -/
def mayStore : Instr → Bool
  | .ldHlR _ | .ldHlN _ | .ldBcA | .ldDeA | .ldHlIncA | .ldHlDecA | .ldhA8A _ | .ldhCA | .ldA16A _ | .ldA16Sp _
  | .incHl | .decHl | .rlcHl | .rrcHl | .rlHl | .rrHl | .slaHl | .sraHl | .swapHl | .srlHl | .resHl _ | .setHl _
  | .pushRr _ | .pushAf | .callA16 _ | .callCc _ _ | .rst _ => true
  | .prefixCb _ => true
  | _ => false

/-- The instructions of the rows of 10_state.md R25 that write a flag. -/
def writesFlags : Instr → Bool
  | .addR _ | .addHl | .addN _ | .adcR _ | .adcHl | .adcN _ | .subR _ | .subHl | .subN _ | .sbcR _ | .sbcHl | .sbcN _
  | .andR _ | .andHl | .andN _ | .xorR _ | .xorHl | .xorN _ | .orR _ | .orHl | .orN _ | .cpR _ | .cpHl | .cpN _
  | .incR _ | .incHl | .decR _ | .decHl | .addHlRr _ | .addSpE _ | .ldHlSpE _ | .rlca | .rla | .rrca | .rra
  | .rlcR _ | .rlcHl | .rrcR _ | .rrcHl | .rlR _ | .rlHl | .rrR _ | .rrHl | .slaR _ | .slaHl | .sraR _ | .sraHl
  | .swapR _ | .swapHl | .srlR _ | .srlHl | .bitR _ _ | .bitHl _ | .daa | .cpl | .scf | .ccf | .popAf => true
  | .prefixCb _ => true
  | _ => false

/-- The invalid opcodes (30_encoding.md R153). -/
def invalidRows : List (Byte × Instr) :=
  [(0xD3#8, .invalidD3), (0xDB#8, .invalidDB), (0xDD#8, .invalidDD), (0xE3#8, .invalidE3), (0xE4#8, .invalidE4),
   (0xEB#8, .invalidEB), (0xEC#8, .invalidEC), (0xED#8, .invalidED), (0xF4#8, .invalidF4), (0xFC#8, .invalidFC),
   (0xFD#8, .invalidFD)]

/-- A write at an address that reduces a bank number (20_memory.md R112, R113, R117, R121, R122). -/
def reducesBank (m : Mbc) (n : Nat) : Prop :=
  match m.kind with
  | .null => False
  | .mbc1 => (0x2000 ≤ n ∧ n < 0x4000) ∨ (0x4000 ≤ n ∧ n < 0x6000 ∧ m.mode = false)
  | .mbc3 => 0x2000 ≤ n ∧ n < 0x4000
  | .mbc5 => 0x2000 ≤ n ∧ n < 0x4000

/-! ### The length table of 30_encoding.md R140 -/

/-- The rows 0 to 3 and C to F of the table, opcode 0xCB with length 2; the invalid opcodes, which have no length, as 1
(one byte is fetched before they fault). -/
def lengthRows : List (Nat × List Nat) :=
  [(0x0, [1, 3, 1, 1, 1, 1, 2, 1, 3, 1, 1, 1, 1, 1, 2, 1]),
   (0x1, [2, 3, 1, 1, 1, 1, 2, 1, 2, 1, 1, 1, 1, 1, 2, 1]),
   (0x2, [2, 3, 1, 1, 1, 1, 2, 1, 2, 1, 1, 1, 1, 1, 2, 1]),
   (0x3, [2, 3, 1, 1, 1, 1, 2, 1, 2, 1, 1, 1, 1, 1, 2, 1]),
   (0xC, [1, 1, 3, 3, 3, 1, 2, 1, 1, 1, 3, 2, 3, 3, 2, 1]),
   (0xD, [1, 1, 3, 1, 3, 1, 2, 1, 1, 1, 3, 1, 3, 1, 2, 1]),
   (0xE, [2, 1, 1, 1, 1, 1, 2, 1, 2, 1, 3, 1, 1, 1, 2, 1]),
   (0xF, [2, 1, 1, 1, 1, 1, 2, 1, 2, 1, 3, 1, 1, 1, 2, 1])]

/-! ### The Timer's loops, as 60_exceptions.md R443 writes them, with fuel -/

/-- `while divAcc >= 256: divAcc <- divAcc - 256; DIV <- DIV + 1`. -/
def divLoop : Nat → Timer → Timer
  | 0, t => t
  | fuel + 1, t =>
    if 256 ≤ t.divAcc then divLoop fuel { t with divAcc := t.divAcc - 256, div := t.div + 1#8 } else t

/-- `while timaAcc >= P: ...`, the overflow reloading TIMA and calling `attemptTimer`. -/
def timaLoop (p : Nat) : Nat → State → State
  | 0, s => s
  | fuel + 1, s =>
    if p ≤ s.timer.timaAcc then
      let s1 : State := { s with timer := { s.timer with timaAcc := s.timer.timaAcc - p } }
      if s1.timer.tima = 0xFF#8 then
        let s2 : State := { s1 with timer := { s1.timer with tima := s1.timer.tma } }
        timaLoop p fuel
          (if s2.enabled.getLsbD 2 then { s2 with requested := s2.requested ||| 0b00100#5 } else s2)
      else timaLoop p fuel { s1 with timer := { s1.timer with tima := s1.timer.tima + 1#8 } }
    else s

/-- The period table (10_state.md R35). -/
def period (speed : BitVec 2) : Nat :=
  if speed = 0#2 then 1024 else if speed = 1#2 then 16 else if speed = 2#2 then 64 else 256

/-- `Timer.advance(n)` as R443 writes it, with fuel for as many rounds as there are cycles. -/
def advanceLoops (s : State) (n : Nat) : State :=
  let t := divLoop (s.timer.divAcc + n) { s.timer with divAcc := s.timer.divAcc + n }
  let s1 : State := { s with timer := t }
  if t.running then
    timaLoop (period t.speed) (t.timaAcc + n) { s1 with timer := { t with timaAcc := t.timaAcc + n } }
  else s1

/-! ### Other terms -/

/-- The two-digit decimal number `n` in BCD. -/
def bcd (n : Nat) : Byte := BitVec.ofNat 8 (n / 10 * 16 + n % 10)

/-- `s` with the two counters that no program can read moved on. -/
def addCounters (s : State) (n m : Nat) : State := { s with cycles := s.cycles + n, totalI := s.totalI + m }

/-- A sequence of writes to the controller. -/
def controllerWrites : List (Nat × Byte) → Mbc → Option Mbc
  | [], m => some m
  | (a, v) :: ws, m => (m.write a v).bind (controllerWrites ws)

end Sys2Proof.Claims

open Sys2Proof Sys2Proof.Machine Sys2Proof.Claims

/-! ## Encoding -/

/-- Decoding the encoding of a whole instruction, whatever follows it, gives the instruction and what follows. -/
def Obligations.DecodeOfEncode : Prop :=
  ∀ (i : Instr) (rest : List Byte), i.wellFormed = true → decode (encode i ++ rest) = .ok (i, rest)

/-- Whatever decodes was the encoding of a whole instruction: no bit of a word is dropped. -/
def Obligations.EncodeOfDecode : Prop :=
  ∀ (bytes rest : List Byte) (i : Instr), decode bytes = .ok (i, rest) →
    i.wellFormed = true ∧ encode i ++ rest = bytes

/-- Words written out from the map of R151 and the tables of R150 decode to what they stand for. -/
def Obligations.WordsWrittenOut : Prop :=
  decode [0b01111000#8] = .ok (.ldRR .a .b, [])
  ∧ decode [0b01110000#8] = .ok (.ldHlR .b, [])
  ∧ decode [0b01110110#8] = .ok (.halt, [])
  ∧ decode [0b10011100#8] = .ok (.sbcR .h, [])
  ∧ decode [0b00001000#8, 0x00#8, 0xC1#8] = .ok (.ldA16Sp 0xC100#16, [])
  ∧ decode [0b00111001#8] = .ok (.addHlRr .sp, [])
  ∧ decode [0b11011010#8, 0x00#8, 0x80#8] = .ok (.jpCc .c 0x8000#16, [])
  ∧ decode [0b11101111#8] = .ok (.rst 5#3, [])
  ∧ decode [0b11110001#8] = .ok (.popAf, [])
  ∧ decode [0xCB#8, 0b01111110#8] = .ok (.bitHl 7#3, [])
  ∧ decode [0xCB#8, 0b00110111#8] = .ok (.swapR .a, [])
  ∧ decode [0xCB#8, 0xCB#8] = .ok (.setR 1#3 .e, [])
  ∧ decode [0xDD#8, 0x00#8] = .ok (.invalidDD, [0x00#8])
  ∧ [Reg8.b, .c, .d, .e, .h, .l, .a].map Reg8.code = [0#3, 1#3, 2#3, 3#3, 4#3, 5#3, 7#3]
  ∧ [Reg16.bc, .de, .hl, .sp].map Reg16.code = [0#2, 1#2, 2#2, 3#2]
  ∧ [StackPair.bc, .de, .hl].map StackPair.code = [0#2, 1#2, 2#2]
  ∧ [Cond.nz, .z, .nc, .c].map Cond.code = [0#2, 1#2, 2#2, 3#2]

/-- R140: the number of bytes fetched is a function of the first byte, by the table. That an invalid opcode, to which the
table gives no length, counts as one byte is the model's choice (log 13). -/
def Obligations.LengthTable : Prop :=
  (∀ op : Byte, 0x40 ≤ op.toNat → op.toNat < 0xC0 → lengthOf op = 1)
  ∧ (∀ r, r ∈ lengthRows → ∀ k, k < 16 → some (lengthOf (BitVec.ofNat 8 (16 * r.1 + k))) = r.2[k]?)
  ∧ ∀ (op b1 b2 : Byte) (rest : List Byte),
      ∃ i, decode (op :: b1 :: b2 :: rest) = .ok (i, (op :: b1 :: b2 :: rest).drop (lengthOf op))

/-- Exactly the eleven opcodes of R153 are invalid; the meaning of each stores the record and changes nothing else; a
step that fetches one, from a store or from an oracle, ends so, with PC at the opcode, 4 cycles spent and the pending EI
taken (R333, R400, R401). That the raising meaning and the raising step answer a next state with the record stored is
the model's choice (log 6); `takeArrivals` is what collaborators do before the step (log 10). -/
def Obligations.InvalidOpcodes : Prop :=
  (∀ op b1 b2 : Byte, (∃ b, (b, decodeOp op b1 b2) ∈ invalidRows) ↔ op ∈ invalidRows.map Prod.fst)
  ∧ (∀ (s : State) (b : Byte) (i : Instr), (b, i) ∈ invalidRows →
      exec i s = .next { s with fault := some ⟨.invalidOpcode, s.regs.pc, b, none⟩ })
  ∧ ∀ (s₀ : State) (b : Byte) (i : Instr), (b, i) ∈ invalidRows →
      let s := s₀.takeArrivals
      s.canFetch → s.peek s.regs.pc = b →
      step s₀ = .next { s with
        ime := s.ime || s.eiPending
        eiPending := false
        stopped := false
        draws := s.draws + (s.answer s.regs.pc).drawn
        cycles := s.cycles + 4
        timerDebt := s.timerDebt + 4
        fault := some ⟨.invalidOpcode, s.regs.pc, b, none⟩ }

/-! ## The step around an instruction -/

/-- When the bytes at PC are those of a whole instruction, the step is the instruction's meaning, run in the state after
phase 1 and the fetch, and what follows it: nothing if it raised CoreFault, else the count of instructions, the Timer's
advance by the debt, the wake-up and the dispatch. Whatever answers at PC, an oracle included, the instruction is the one
that the fetch reads, byte by byte (R143). `takeArrivals` is what collaborators do before the step (log 10). That a
meaning starts with the bytes fetched and PC at `pc0` (log 8) and that a raise ends in a next state (log 6) are the
model's form. -/
def Obligations.StepRunsDecoded : Prop :=
  (∀ (s₀ t : State) (i : Instr), i.wellFormed = true →
    let s := s₀.takeArrivals
    s.canFetch →
    (∀ (k : Nat) (h : k < (encode i).length), s.answer (s.regs.pc + BitVec.ofNat 16 k) = .byte (encode i)[k]) →
    exec i (s.activateEi.fetched i) = .next t → step s₀ = .next t.afterInstr)
  ∧ (∀ s₀ t : State,
    let s := s₀.takeArrivals
    s.canFetch → exec s.activateEi.fetch.1 s.activateEi.fetch.2 = .next t → step s₀ = .next t.afterInstr)
  ∧ (∀ s : State,
    let op := s.memRead s.regs.pc
    let b1 := op.2.memRead (s.regs.pc + 1#16)
    let b2 := b1.2.memRead (s.regs.pc + 2#16)
    (lengthOf op.1 = 1 → s.fetch = (decodeOp op.1 0#8 0#8, op.2))
    ∧ (lengthOf op.1 = 2 → s.fetch = (decodeOp op.1 b1.1 0#8, b1.2))
    ∧ (lengthOf op.1 = 3 → s.fetch = (decodeOp op.1 b1.1 b2.1, b2.2)))
  ∧ (∀ s : State, s.activateEi = { s with ime := s.ime || s.eiPending, eiPending := false, stopped := false })
  ∧ (∀ s : State, s.fault ≠ none → s.afterInstr = s)
  ∧ (∀ s : State, s.fault = none →
      s.afterInstr = (State.wake { State.timerAdvance { s with totalI := s.totalI + 1 } s.timerDebt with
        timerDebt := 0 }).service)
  ∧ (∀ s : State, s.halted = true → s.requested ≠ 0#5 → s.wake = { s with halted := false })
  ∧ ∀ s : State, (s.halted = false ∨ s.requested = 0#5) → s.wake = s

/-- The steps that execute nothing: a faulted core answers the stored record, whatever else the state holds (R400, R430
phase 0); at a breakpoint only a pending EI has taken effect (R450). That the step at a breakpoint answers a next state
with the note `stopped` is the model's choice (log 9); `takeArrivals` is what collaborators do before the step
(log 10). -/
def Obligations.StepsThatExecuteNothing : Prop :=
  (∀ (s : State) (f : CoreFault), s.fault = some f → step s = .fault (.coreFault f))
  ∧ ∀ s₀ : State,
      let s := s₀.takeArrivals
      s.fault = none → s.regs.pc ∈ s.breakpoints →
      step s₀ = .next { s with ime := s.ime || s.eiPending, eiPending := false, stopped := true }

/-! ## 8-bit loads -/

/-- LD r,r' (R200) and LD r,n8 (R203). -/
def Obligations.RegisterLoads : Prop :=
  ∀ (s : State) (dst src : Reg8) (n : Byte),
    runsOnRegs s (.ldRR dst src) [0b01#2 ++ dst.code ++ src.code] 4 (setsReg dst (s.regs.get src) 1#16)
    ∧ runsOnRegs s (.ldRN dst n) [0b00#2 ++ dst.code ++ 0b110#3, n] 8 (setsReg dst n 2#16)

/-- The loads of a byte of memory: R201, R205, R206, R209, R210, R214, R216, R218. The address is formed before the
register is written; (HL+) and (HL-) move HL afterwards, modulo 65536. -/
def Obligations.LoadsFromMemory : Prop :=
  ∀ (s : State) (dst : Reg8) (n : Byte) (a : Word),
    runsRead s (.ldRHl dst) [0b01#2 ++ dst.code ++ 0b110#3] s.regs.hl 8 (fun v => setsReg dst v 1#16)
    ∧ runsRead s .ldABc [0x0A#8] s.regs.bc 8 (fun v => setsReg .a v 1#16)
    ∧ runsRead s .ldADe [0x1A#8] s.regs.de 8 (fun v => setsReg .a v 1#16)
    ∧ runsRead s .ldAHlInc [0x2A#8] s.regs.hl 8
        (fun v r t => t.a = v ∧ t.hl = r.hl + 1#16 ∧ r.keep t [.a, .h, .l] ∧ flowsOn r t 1#16)
    ∧ runsRead s .ldAHlDec [0x3A#8] s.regs.hl 8
        (fun v r t => t.a = v ∧ t.hl = r.hl - 1#16 ∧ r.keep t [.a, .h, .l] ∧ flowsOn r t 1#16)
    ∧ runsRead s (.ldhAA8 n) [0xF0#8, n] (page n) 12 (fun v => setsReg .a v 2#16)
    ∧ runsRead s .ldhAC [0xF2#8] (page s.regs.c) 8 (fun v => setsReg .a v 1#16)
    ∧ runsRead s (.ldAA16 a) [0xFA#8, low a, high a] a 16 (fun v => setsReg .a v 3#16)

/-- The stores of a byte: R202, R204, R207, R208, R211, R212, R213, R215, R217. (HL+) and (HL-) move HL after the
write. -/
def Obligations.ByteStores : Prop :=
  ∀ (s : State) (src : Reg8) (n : Byte) (a : Word),
    runsStore s (.ldHlR src) [0b01110#5 ++ src.code] s.regs.hl (s.regs.get src) 8
        (fun r t => t = { r with pc := r.pc + 1#16 })
    ∧ runsStore s (.ldHlN n) [0x36#8, n] s.regs.hl n 12 (fun r t => t = { r with pc := r.pc + 2#16 })
    ∧ runsStore s .ldBcA [0x02#8] s.regs.bc s.regs.a 8 (fun r t => t = { r with pc := r.pc + 1#16 })
    ∧ runsStore s .ldDeA [0x12#8] s.regs.de s.regs.a 8 (fun r t => t = { r with pc := r.pc + 1#16 })
    ∧ runsStore s .ldHlIncA [0x22#8] s.regs.hl s.regs.a 8
        (fun r t => t.hl = r.hl + 1#16 ∧ r.keep t [.h, .l] ∧ flowsOn r t 1#16)
    ∧ runsStore s .ldHlDecA [0x32#8] s.regs.hl s.regs.a 8
        (fun r t => t.hl = r.hl - 1#16 ∧ r.keep t [.h, .l] ∧ flowsOn r t 1#16)
    ∧ runsStore s (.ldhA8A n) [0xE0#8, n] (page n) s.regs.a 12 (fun r t => t = { r with pc := r.pc + 2#16 })
    ∧ runsStore s .ldhCA [0xE2#8] (page s.regs.c) s.regs.a 8 (fun r t => t = { r with pc := r.pc + 1#16 })
    ∧ runsStore s (.ldA16A a) [0xEA#8, low a, high a] a s.regs.a 16 (fun r t => t = { r with pc := r.pc + 3#16 })

/-! ## 8-bit arithmetic -/

/-- The eight accumulator operations on a register (R230; R231, R234, R237, R240, R243, R246, R249, R252). -/
def Obligations.AccumulatorRegister : Prop :=
  ∀ (s : State) (src : Reg8),
    runsOnRegs s (.addR src) [0b10000#5 ++ src.code] 4 (accumulates .add (s.regs.get src) 1#16)
    ∧ runsOnRegs s (.adcR src) [0b10001#5 ++ src.code] 4 (accumulates .adc (s.regs.get src) 1#16)
    ∧ runsOnRegs s (.subR src) [0b10010#5 ++ src.code] 4 (accumulates .sub (s.regs.get src) 1#16)
    ∧ runsOnRegs s (.sbcR src) [0b10011#5 ++ src.code] 4 (accumulates .sbc (s.regs.get src) 1#16)
    ∧ runsOnRegs s (.andR src) [0b10100#5 ++ src.code] 4 (accumulates .and (s.regs.get src) 1#16)
    ∧ runsOnRegs s (.xorR src) [0b10101#5 ++ src.code] 4 (accumulates .xor (s.regs.get src) 1#16)
    ∧ runsOnRegs s (.orR src) [0b10110#5 ++ src.code] 4 (accumulates .or (s.regs.get src) 1#16)
    ∧ runsOnRegs s (.cpR src) [0b10111#5 ++ src.code] 4 (accumulates .cp (s.regs.get src) 1#16)

/-- The eight accumulator operations on the byte at HL (R232, R235, R238, R241, R244, R247, R250, R253). -/
def Obligations.AccumulatorMemory : Prop :=
  ∀ s : State,
    runsRead s .addHl [0x86#8] s.regs.hl 8 (fun v => accumulates .add v 1#16)
    ∧ runsRead s .adcHl [0x8E#8] s.regs.hl 8 (fun v => accumulates .adc v 1#16)
    ∧ runsRead s .subHl [0x96#8] s.regs.hl 8 (fun v => accumulates .sub v 1#16)
    ∧ runsRead s .sbcHl [0x9E#8] s.regs.hl 8 (fun v => accumulates .sbc v 1#16)
    ∧ runsRead s .andHl [0xA6#8] s.regs.hl 8 (fun v => accumulates .and v 1#16)
    ∧ runsRead s .xorHl [0xAE#8] s.regs.hl 8 (fun v => accumulates .xor v 1#16)
    ∧ runsRead s .orHl [0xB6#8] s.regs.hl 8 (fun v => accumulates .or v 1#16)
    ∧ runsRead s .cpHl [0xBE#8] s.regs.hl 8 (fun v => accumulates .cp v 1#16)

/-- The eight accumulator operations on an immediate (R233, R236, R239, R242, R245, R248, R251, R254). -/
def Obligations.AccumulatorImmediate : Prop :=
  ∀ (s : State) (n : Byte),
    runsOnRegs s (.addN n) [0xC6#8, n] 8 (accumulates .add n 2#16)
    ∧ runsOnRegs s (.adcN n) [0xCE#8, n] 8 (accumulates .adc n 2#16)
    ∧ runsOnRegs s (.subN n) [0xD6#8, n] 8 (accumulates .sub n 2#16)
    ∧ runsOnRegs s (.sbcN n) [0xDE#8, n] 8 (accumulates .sbc n 2#16)
    ∧ runsOnRegs s (.andN n) [0xE6#8, n] 8 (accumulates .and n 2#16)
    ∧ runsOnRegs s (.xorN n) [0xEE#8, n] 8 (accumulates .xor n 2#16)
    ∧ runsOnRegs s (.orN n) [0xF6#8, n] 8 (accumulates .or n 2#16)
    ∧ runsOnRegs s (.cpN n) [0xFE#8, n] 8 (accumulates .cp n 2#16)

/-- INC r (R255), DEC r (R257), INC (HL) (R256) and DEC (HL) (R258): Cy is unchanged; the (HL) forms read once and
then write once. -/
def Obligations.IncDec : Prop :=
  ∀ (s : State) (x : Reg8),
    runsOnRegs s (.incR x) [0b00#2 ++ x.code ++ 0b100#3] 4 (fun r t =>
        (t.get x).toNat = ((r.get x).toNat + 1) % 256 ∧ t.f.z = decide (t.get x = 0#8) ∧ t.f.n = false
        ∧ t.f.h = decide ((r.get x).toNat % 16 = 0xF) ∧ t.f.c = r.f.c
        ∧ r.keep t [x] ∧ t.sp = r.sp ∧ t.pc = r.pc + 1#16)
    ∧ runsOnRegs s (.decR x) [0b00#2 ++ x.code ++ 0b101#3] 4 (fun r t =>
        (t.get x).toNat = ((r.get x).toNat + 255) % 256 ∧ t.f.z = decide (t.get x = 0#8) ∧ t.f.n = true
        ∧ t.f.h = decide ((r.get x).toNat % 16 = 0) ∧ t.f.c = r.f.c
        ∧ r.keep t [x] ∧ t.sp = r.sp ∧ t.pc = r.pc + 1#16)
    ∧ runsUpdate s .incHl [0x34#8] s.regs.hl (fun v => v + 1#8) 12 (fun v r t =>
        t = { r with
          f := ⟨decide (v.toNat = 0xFF), false, decide (v.toNat % 16 = 0xF), r.f.c⟩
          pc := r.pc + 1#16 })
    ∧ runsUpdate s .decHl [0x35#8] s.regs.hl (fun v => v - 1#8) 12 (fun v r t =>
        t = { r with
          f := ⟨decide (v.toNat = 0x01), true, decide (v.toNat % 16 = 0), r.f.c⟩
          pc := r.pc + 1#16 })

/-! ## 16-bit loads and the stack -/

/-- LD rr,n16 (R261), LD (a16),SP (R262) and LD SP,HL (R263). LD (a16),SP stores the low byte at a16, then the high
byte at the next address, which wraps. -/
def Obligations.WordLoads : Prop :=
  ∀ (s : State) (p : Reg16) (n : Word),
    runsOnRegs s (.ldRrN16 p n) [0b00#2 ++ p.code ++ 0b0001#4, low n, high n] 12
        (fun r t => setsPair p n 3#16 r t ∧ t.f = r.f)
    ∧ runsTwoStores s (.ldA16Sp n) [0x08#8, low n, high n] n (low s.regs.sp) (n + 1#16) (high s.regs.sp) 20
        (fun r t => t = { r with pc := r.pc + 3#16 })
    ∧ runsOnRegs s .ldSpHl [0xF9#8] 8 (fun r t => t = { r with sp := r.hl, pc := r.pc + 1#16 })

/-- LD HL,SP+e8 (R264) and ADD SP,e8 (R283): the carries are those of the unsigned byte addition, and Z is 0. -/
def Obligations.SpPlusOffset : Prop :=
  ∀ (s : State) (e : Byte),
    let f : Machine.Flags :=
      ⟨false, false, decide (s.regs.sp.toNat % 16 + e.toNat % 16 > 0xF),
       decide (s.regs.sp.toNat % 256 + e.toNat > 0xFF)⟩
    runsOnRegs s (.ldHlSpE e) [0xF8#8, e] 12 (fun r t =>
        t.hl = r.sp + signed e ∧ r.keep t [.h, .l] ∧ t.f = f ∧ t.sp = r.sp ∧ t.pc = r.pc + 2#16)
    ∧ runsOnRegs s (.addSpE e) [0xE8#8, e] 16
        (fun r t => t = { r with sp := r.sp + signed e, f := f, pc := r.pc + 2#16 })

/-- PUSH rr (R265) and PUSH AF (R266). -/
def Obligations.Pushes : Prop :=
  ∀ (s : State) (p : StackPair),
    runsPush s (.pushRr p) [0b11#2 ++ p.code ++ 0b0101#4] (s.regs.get16 (pairOf p)) 16
        (fun r t => t = { r with sp := r.sp - 2#16, pc := r.pc + 1#16 })
    ∧ runsPush s .pushAf [0xF5#8] (s.regs.a ++ (BitVec.ofBool s.regs.f.z ++ BitVec.ofBool s.regs.f.n
          ++ BitVec.ofBool s.regs.f.h ++ BitVec.ofBool s.regs.f.c ++ 0b0000#4)) 16
        (fun r t => t = { r with sp := r.sp - 2#16, pc := r.pc + 1#16 })

/-- POP rr (R267) and POP AF (R268). -/
def Obligations.Pops : Prop :=
  ∀ (s : State) (p : StackPair),
    runsPop s (.popRr p) [0b11#2 ++ p.code ++ 0b0001#4] s 12 (fun w r t =>
        t.get16 (pairOf p) = w ∧ (∀ q, q ≠ pairOf p → q ≠ .sp → t.get16 q = r.get16 q) ∧ t.a = r.a ∧ t.f = r.f
        ∧ t.sp = r.sp + 2#16 ∧ t.pc = r.pc + 1#16)
    ∧ runsPop s .popAf [0xF1#8] s 12 (fun w r t =>
        t = { r with
          a := high w
          f := ⟨w.getLsbD 7, w.getLsbD 6, w.getLsbD 5, w.getLsbD 4⟩
          sp := r.sp + 2#16
          pc := r.pc + 1#16 })

/-- A pushed pair comes back by a pop of any pair, and SP with it, where both bytes of the stack are in writable stores
and no cheat stands there (R260, R265, R267). -/
def Obligations.PushThenPop : Prop :=
  ∀ (s : State) (p q : StackPair) (c d : Cell), s.wf = true → s.cheats = [] →
    s.storedCell (s.regs.sp - 1#16) = some c → s.storedCell (s.regs.sp - 2#16) = some d → c ≠ d →
    ∃ t u, exec (.pushRr p) s = .next t ∧ exec (.popRr q) t = .next u
      ∧ u.regs.get16 (pairOf q) = s.regs.get16 (pairOf p) ∧ u.regs.sp = s.regs.sp

/-! ## 16-bit arithmetic -/

/-- ADD HL,rr (R280), INC rr (R281) and DEC rr (R282). -/
def Obligations.WordArithmetic : Prop :=
  ∀ (s : State) (p : Reg16),
    runsOnRegs s (.addHlRr p) [0b00#2 ++ p.code ++ 0b1001#4] 8 (fun r t =>
        t.hl.toNat = (r.hl.toNat + (r.get16 p).toNat) % 65536
        ∧ t.f = ⟨r.f.z, false, decide (r.hl.toNat % 4096 + (r.get16 p).toNat % 4096 > 0xFFF),
            decide (r.hl.toNat + (r.get16 p).toNat > 0xFFFF)⟩
        ∧ r.keep t [.h, .l] ∧ t.sp = r.sp ∧ t.pc = r.pc + 1#16)
    ∧ runsOnRegs s (.incRr p) [0b00#2 ++ p.code ++ 0b0011#4] 8
        (fun r t => setsPair p (r.get16 p + 1#16) 1#16 r t ∧ t.f = r.f)
    ∧ runsOnRegs s (.decRr p) [0b00#2 ++ p.code ++ 0b1011#4] 8
        (fun r t => setsPair p (r.get16 p - 1#16) 1#16 r t ∧ t.f = r.f)

/-! ## Control transfers -/

/-- JP a16 (R291), JP cc,a16 (R292), JP HL (R293), JR e8 (R294), JR cc,e8 (R295), with the condition of R290. -/
def Obligations.Jumps : Prop :=
  ∀ (s : State) (cc : Cond) (a : Word) (e : Byte),
    runsOnRegs s (.jpA16 a) [0xC3#8, low a, high a] 16 (fun r t => t = { r with pc := a })
    ∧ (condTrue s.regs.f cc → runsOnRegs s (.jpCc cc a) [0b110#3 ++ cc.code ++ 0b010#3, low a, high a] 16
        (fun r t => t = { r with pc := a }))
    ∧ (¬ condTrue s.regs.f cc → runsOnRegs s (.jpCc cc a) [0b110#3 ++ cc.code ++ 0b010#3, low a, high a] 12
        (fun r t => t = { r with pc := r.pc + 3#16 }))
    ∧ runsOnRegs s .jpHl [0xE9#8] 4 (fun r t => t = { r with pc := r.hl })
    ∧ runsOnRegs s (.jrE e) [0x18#8, e] 12 (fun r t => t = { r with pc := r.pc + 2#16 + signed e })
    ∧ (condTrue s.regs.f cc →
        runsOnRegs s (.jrCc cc e) [0b001#3 ++ cc.code ++ 0b000#3, e] 12
            (fun r t => t = { r with pc := r.pc + 2#16 + signed e }))
    ∧ (¬ condTrue s.regs.f cc → runsOnRegs s (.jrCc cc e) [0b001#3 ++ cc.code ++ 0b000#3, e] 8
        (fun r t => t = { r with pc := r.pc + 2#16 }))

/-- CALL a16 (R296), CALL cc,a16 (R297), RST vec (R301): the address after the instruction is pushed. -/
def Obligations.Calls : Prop :=
  ∀ (s : State) (cc : Cond) (a : Word) (v : BitVec 3),
    runsPush s (.callA16 a) [0xCD#8, low a, high a] (s.regs.pc + 3#16) 24
        (fun r t => t = { r with sp := r.sp - 2#16, pc := a })
    ∧ (condTrue s.regs.f cc →
        runsPush s (.callCc cc a) [0b110#3 ++ cc.code ++ 0b100#3, low a, high a] (s.regs.pc + 3#16) 24
            (fun r t => t = { r with sp := r.sp - 2#16, pc := a }))
    ∧ (¬ condTrue s.regs.f cc → runsOnRegs s (.callCc cc a) [0b110#3 ++ cc.code ++ 0b100#3, low a, high a] 12
        (fun r t => t = { r with pc := r.pc + 3#16 }))
    ∧ runsPush s (.rst v) [0b11#2 ++ v ++ 0b111#3] (s.regs.pc + 1#16) 16
        (fun r t => t = { r with sp := r.sp - 2#16, pc := BitVec.ofNat 16 (8 * v.toNat) })

/-- RET (R298), RET cc (R299), RETI (R300): RETI sets IME at once and leaves a pending EI alone. -/
def Obligations.Returns : Prop :=
  ∀ (s : State) (cc : Cond),
    runsPop s .ret [0xC9#8] s 16 (fun w r t => t = { r with sp := r.sp + 2#16, pc := w })
    ∧ (condTrue s.regs.f cc → runsPop s (.retCc cc) [0b110#3 ++ cc.code ++ 0b000#3] s 20
        (fun w r t => t = { r with sp := r.sp + 2#16, pc := w }))
    ∧ (¬ condTrue s.regs.f cc → runsOnRegs s (.retCc cc) [0b110#3 ++ cc.code ++ 0b000#3] 8
        (fun r t => t = { r with pc := r.pc + 1#16 }))
    ∧ runsPop s .reti [0xD9#8] { s with ime := true } 16 (fun w r t => t = { r with sp := r.sp + 2#16, pc := w })

/-! ## Miscellaneous -/

/-- NOP (R320), HALT (R321), STOP (R322), DI (R323), EI (R324). -/
def Obligations.SystemInstructions : Prop :=
  ∀ (s : State) (n : Byte),
    let next (len : Word) : Regs := { s.regs with pc := s.regs.pc + len }
    runsTo s .nop [0x00#8] s 4 (next 1#16)
    ∧ runsTo s .halt [0x76#8] { s with halted := true } 4 (next 1#16)
    ∧ (s.cgb = true → s.key1Prepare = true →
        runsTo s (.stop n) [0x10#8, n] { s with key1Speed := !s.key1Speed, key1Prepare := false } 8 (next 2#16))
    ∧ ((s.cgb = false ∨ s.key1Prepare = false) → runsTo s (.stop n) [0x10#8, n] s 8 (next 2#16))
    ∧ runsTo s .di [0xF3#8] { s with ime := false, eiPending := false } 4 (next 1#16)
    ∧ runsTo s .ei [0xFB#8] { s with eiPending := true } 4 (next 1#16)

/-- DAA (R325): the algorithm on A and the flags; N is unchanged and Hf is 0. -/
def Obligations.DaaAlgorithm : Prop :=
  ∀ s : State,
    let q := daaRow s.regs.a.toNat s.regs.f
    runsOnRegs s .daa [0x27#8] 4 (fun r t =>
        t.a.toNat = q.1 ∧ t.f = ⟨decide (q.1 = 0), r.f.n, false, q.2⟩ ∧ r.keep t [.a] ∧ t.sp = r.sp
        ∧ t.pc = r.pc + 1#16)

/-- DAA after an addition or a subtraction of two-digit decimal numbers gives the decimal result and its carry or
borrow (R230, R325). -/
def Obligations.DaaIsDecimal : Prop :=
  ∀ (s : State) (x y : Nat), x < 100 → y < 100 → s.regs.a = bcd x →
    (∃ t u, exec (.addN (bcd y)) s = .next t ∧ exec .daa t = .next u
      ∧ u.regs.a = bcd ((x + y) % 100) ∧ u.regs.f.c = decide (100 ≤ x + y)
      ∧ u.regs.f.z = decide ((x + y) % 100 = 0))
    ∧ ∃ t u, exec (.subN (bcd y)) s = .next t ∧ exec .daa t = .next u
      ∧ u.regs.a = bcd ((x + 100 - y) % 100) ∧ u.regs.f.c = decide (x < y)

/-- CPL (R326), SCF (R327), CCF (R328), RLCA (R329), RLA (R330), RRCA (R331), RRA (R332). -/
def Obligations.AccumulatorAndFlagOps : Prop :=
  ∀ s : State,
    let rotates (op : RotOp) (r t : Regs) : Prop :=
      t.a.toNat = (rotRow op r.a.toNat (bit r.f.c)).1
      ∧ t.f = ⟨false, false, false, (rotRow op r.a.toNat (bit r.f.c)).2⟩
      ∧ r.keep t [.a] ∧ t.sp = r.sp ∧ t.pc = r.pc + 1#16
    runsOnRegs s .cpl [0x2F#8] 4 (fun r t =>
      t.a.toNat = 255 - r.a.toNat ∧ t.f = ⟨r.f.z, true, true, r.f.c⟩ ∧ r.keep t [.a] ∧ t.sp = r.sp
      ∧ t.pc = r.pc + 1#16)
    ∧ runsOnRegs s .scf [0x37#8] 4 (fun r t => t = { r with f := ⟨r.f.z, false, false, true⟩, pc := r.pc + 1#16 })
    ∧ runsOnRegs s .ccf [0x3F#8] 4 (fun r t => t = { r with f := ⟨r.f.z, false, false, !r.f.c⟩, pc := r.pc + 1#16 })
    ∧ runsOnRegs s .rlca [0x07#8] 4 (rotates .rlc)
    ∧ runsOnRegs s .rla [0x17#8] 4 (rotates .rl)
    ∧ runsOnRegs s .rrca [0x0F#8] 4 (rotates .rrc)
    ∧ runsOnRegs s .rra [0x1F#8] 4 (rotates .rr)

/-! ## The CB page -/

/-- The rotates and shifts of a register (R351, R353, R355, R357, R359, R361, R363, R365). -/
def Obligations.RotateRegister : Prop :=
  ∀ (s : State) (x : Reg8),
    let rotates (op : RotOp) (r t : Regs) : Prop :=
      (t.get x).toNat = (rotRow op (r.get x).toNat (bit r.f.c)).1
      ∧ t.f = ⟨decide (t.get x = 0#8), false, false, (rotRow op (r.get x).toNat (bit r.f.c)).2⟩
      ∧ r.keep t [x] ∧ t.sp = r.sp ∧ t.pc = r.pc + 2#16
    runsOnRegs s (.rlcR x) [0xCB#8, 0b00000#5 ++ x.code] 8 (rotates .rlc)
    ∧ runsOnRegs s (.rrcR x) [0xCB#8, 0b00001#5 ++ x.code] 8 (rotates .rrc)
    ∧ runsOnRegs s (.rlR x) [0xCB#8, 0b00010#5 ++ x.code] 8 (rotates .rl)
    ∧ runsOnRegs s (.rrR x) [0xCB#8, 0b00011#5 ++ x.code] 8 (rotates .rr)
    ∧ runsOnRegs s (.slaR x) [0xCB#8, 0b00100#5 ++ x.code] 8 (rotates .sla)
    ∧ runsOnRegs s (.sraR x) [0xCB#8, 0b00101#5 ++ x.code] 8 (rotates .sra)
    ∧ runsOnRegs s (.swapR x) [0xCB#8, 0b00110#5 ++ x.code] 8 (rotates .swap)
    ∧ runsOnRegs s (.srlR x) [0xCB#8, 0b00111#5 ++ x.code] 8 (rotates .srl)

/-- The rotates and shifts of the byte at HL (R352, R354, R356, R358, R360, R362, R364, R366). -/
def Obligations.RotateMemory : Prop :=
  ∀ s : State,
    let result (op : RotOp) (v : Byte) : Nat × Bool := rotRow op v.toNat (bit s.regs.f.c)
    let rotates (i : Instr) (op2 : Byte) (op : RotOp) : Prop :=
      runsUpdate s i [0xCB#8, op2] s.regs.hl (fun v => BitVec.ofNat 8 (result op v).1) 16 (fun v r t =>
        t = { r with
          f := ⟨decide ((result op v).1 = 0), false, false, (result op v).2⟩
          pc := r.pc + 2#16 })
    rotates .rlcHl 0x06#8 .rlc
    ∧ rotates .rrcHl 0x0E#8 .rrc
    ∧ rotates .rlHl 0x16#8 .rl
    ∧ rotates .rrHl 0x1E#8 .rr
    ∧ rotates .slaHl 0x26#8 .sla
    ∧ rotates .sraHl 0x2E#8 .sra
    ∧ rotates .swapHl 0x36#8 .swap
    ∧ rotates .srlHl 0x3E#8 .srl

/-- BIT, RES and SET on a register and on the byte at HL (R367 to R372). -/
def Obligations.BitInstructions : Prop :=
  ∀ (s : State) (b : BitVec 3) (x : Reg8),
    runsOnRegs s (.bitR b x) [0xCB#8, 0b01#2 ++ b ++ x.code] 8 (fun r t =>
      t = { r with f := ⟨!(r.get x).getLsbD b.toNat, false, true, r.f.c⟩, pc := r.pc + 2#16 })
    ∧ runsRead s (.bitHl b) [0xCB#8, 0b01#2 ++ b ++ 0b110#3] s.regs.hl 12 (fun v r t =>
      t = { r with f := ⟨!v.getLsbD b.toNat, false, true, r.f.c⟩, pc := r.pc + 2#16 })
    ∧ runsOnRegs s (.resR b x) [0xCB#8, 0b10#2 ++ b ++ x.code] 8 (fun r t =>
      (∀ k, k < 8 → (t.get x).getLsbD k = ((r.get x).getLsbD k && decide (k ≠ b.toNat)))
      ∧ r.keep t [x] ∧ flowsOn r t 2#16)
    ∧ runsOnRegs s (.setR b x) [0xCB#8, 0b11#2 ++ b ++ x.code] 8 (fun r t =>
      (∀ k, k < 8 → (t.get x).getLsbD k = ((r.get x).getLsbD k || decide (k = b.toNat)))
      ∧ r.keep t [x] ∧ flowsOn r t 2#16)
    ∧ runsUpdate s (.resHl b) [0xCB#8, 0b10#2 ++ b ++ 0b110#3] s.regs.hl (fun v => v &&& ~~~(1#8 <<< b.toNat)) 16
        (fun _ r t => t = { r with pc := r.pc + 2#16 })
    ∧ runsUpdate s (.setHl b) [0xCB#8, 0b11#2 ++ b ++ 0b110#3] s.regs.hl (fun v => v ||| (1#8 <<< b.toNat)) 16
        (fun _ r t => t = { r with pc := r.pc + 2#16 })

/-- The prefix executes the CB-page instruction of its second byte (R146): it runs as that instruction runs, and so
completes. -/
def Obligations.PrefixRunsCbPage : Prop :=
  ∀ (s : State) (op2 : Byte),
    encode (decodeCb op2) = [0xCB#8, op2]
    ∧ exec (.prefixCb op2) s = exec (decodeCb op2) s
    ∧ ∃ t, exec (.prefixCb op2) s = .next t

/-! ## Whole-machine rules over every instruction -/

/-- Every instruction completes, and the state outside registers, memory and cycles changes only as its rule says. That
an instruction which raises CoreFault completes too, in a next state with the record stored, is the model's choice
(log 6). -/
def Obligations.ExecFrame : Prop :=
  ∀ (i : Instr) (s : State), ∃ t, exec i s = .next t
    ∧ (i ≠ .di → i ≠ .reti → t.ime = s.ime)
    ∧ (i ≠ .di → i ≠ .ei → t.eiPending = s.eiPending)
    ∧ (i ≠ .halt → t.halted = s.halted)
    ∧ ((∀ n, i ≠ .stop n) → t.key1Speed = s.key1Speed)
    ∧ (writesFlags i = false → t.regs.f = s.regs.f)
    ∧ (mayStore i = false → (∀ b, (b, i) ∉ invalidRows) → t.fault = s.fault)
    ∧ (mayStore i = false → (∀ c, t.readCell c = s.readCell c) ∧ t.mbc = s.mbc ∧ t.timer = s.timer
        ∧ t.requested = s.requested ∧ t.enabled = s.enabled ∧ t.wramBank = s.wramBank
        ∧ t.bootEnabled = s.bootEnabled ∧ ((∀ n, i ≠ .stop n) → s.sameMemory t))
    ∧ t.totalI = s.totalI ∧ t.rom = s.rom ∧ t.boot = s.boot ∧ t.cgb = s.cgb ∧ t.title = s.title
    ∧ t.cheats = s.cheats ∧ t.breakpoints = s.breakpoints ∧ t.arrivals = s.arrivals ∧ t.stopped = s.stopped
    ∧ t.mbc.kind = s.mbc.kind ∧ t.mbc.romBanks = s.mbc.romBanks

/-- A store that selects a ROM bank while the bank count is 0 raises CoreFault(BankCountZero): the record names the
instruction, the address and the value; the controller and every cell are as before; PC is past the instruction; the
first byte of a two-byte store keeps its effect when the second byte raises (R127, R400, R401). The cost of the write
that raises and the opcode byte of a CB-page instruction in the record are the model's choices (log 7), and so is that
the raising instruction answers a next state (log 6). The raise from interrupt dispatch is in `Dispatch`. -/
def Obligations.BankCountZeroRaises : Prop :=
  (∀ (i : Instr) (s : State) (a : Word) (v : Byte), firstStore s i = some (a, v) → s.busWrite a v = none →
    ∃ t, exec i (s.fetched i) = .next t
      ∧ t.fault = some ⟨.bankCountZero, s.regs.pc, opcodeOf i, some (a, v)⟩
      ∧ t.regs.pc = s.regs.pc + BitVec.ofNat 16 (encode i).length
      ∧ t.mbc = s.mbc ∧ (∀ c, t.readCell c = s.readCell c) ∧ s.sameMemory t
      ∧ t.ime = s.ime ∧ t.halted = s.halted ∧ t.totalI = s.totalI)
  ∧ ∀ (i : Instr) (s u : State) (a b : Word) (v w : Byte), firstStore s i = some (a, v) →
    secondStore s i = some (b, w) → s.busWrite a v = some u → u.busWrite b w = none →
    ∃ t, exec i (s.fetched i) = .next t
      ∧ t.fault = some ⟨.bankCountZero, s.regs.pc, opcodeOf i, some (b, w)⟩
      ∧ t.regs.pc = s.regs.pc + BitVec.ofNat 16 (encode i).length
      ∧ t.mbc = u.mbc ∧ (∀ c, t.readCell c = u.readCell c) ∧ u.sameMemory t
      ∧ t.ime = s.ime ∧ t.halted = s.halted ∧ t.totalI = s.totalI

/-! ## The memory map -/

/-- What a read answers below 0xFF00 and in high RAM: the cheat overlay first (R60), then the map (R70 to R73, R77 to
R81, R84, R85), with `RomByte` of R75. That the overlay is shown only if a boot image is present is the model's reading
(log 16). -/
def Obligations.ReadMap : Prop :=
  ∀ (s : State) (a : Word),
    let n := a.toNat
    let overlay := n < 0x100 ∧ s.bootEnabled = true ∧ s.boot.isSome = true
    (∀ v, s.cheats.get? n = some v → s.answer a = .byte v)
    ∧ (s.cheats.get? n = none →
      (overlay → s.answer a = .byte (s.readCell (.boot n)))
      ∧ (n < 0x4000 → ¬ overlay → s.answer a = .byte (s.readCell (.rom n)))
      ∧ (0x4000 ≤ n → n < 0x8000 →
          let bank := if s.mbc.kind = .null then 1 else s.mbc.romBank.toNat
          let off := bank * 0x4000 + (n - 0x4000)
          s.answer a = .byte (if off < 0x400000 then s.readCell (.rom off) else 0xFF#8))
      ∧ (0x8000 ≤ n → n < 0xA000 → s.answer a = .collab .gpuVram a)
      ∧ (0xC000 ≤ n → n < 0xD000 → s.answer a = .byte (s.readCell (.wram (n - 0xC000))))
      ∧ (0xD000 ≤ n → n < 0xE000 →
          let bank := if s.cgb = true then s.wramBank.toNat else 1
          s.answer a = .byte (s.readCell (.wram (bank * 0x1000 + (n - 0xD000)))))
      ∧ (0xFE00 ≤ n → n < 0xFEA0 → s.answer a = .collab .gpuOam a)
      ∧ (0xFEA0 ≤ n → n < 0xFF00 → s.answer a = .byte 0xFF#8)
      ∧ (0xFF80 ≤ n → n < 0xFFFF → s.answer a = .byte (s.readCell (.hram (n - 0xFF80)))))
    ∧ (∀ v, s.answer a = .byte v → s.memRead a = (v, { s with cycles := s.cycles + 4, timerDebt := s.timerDebt + 4 }))

/-- What a read answers in the HWIO window and at 0xFFFF (R82, R83, R90 to R98, R441). -/
def Obligations.HwioReads : Prop :=
  ∀ (s : State) (a : Word), s.cheats.get? a.toNat = none →
    let n := a.toNat
    (n = 0xFF00 → s.answer a = .collab .joypad a)
    ∧ (0xFF01 ≤ n → n ≤ 0xFF02 → s.answer a = .collab .serial a)
    ∧ (n = 0xFF04 → s.answer a = .byte s.timer.div)
    ∧ (n = 0xFF05 → s.answer a = .byte s.timer.tima)
    ∧ (n = 0xFF06 → s.answer a = .byte s.timer.tma)
    ∧ (n = 0xFF07 → s.answer a = .byte (0b00000#5 ++ BitVec.ofBool s.timer.running ++ s.timer.speed))
    ∧ (n = 0xFF0F → s.answer a = .byte (0b000#3 ++ s.requested))
    ∧ ((0xFF10 ≤ n ∧ n ≤ 0xFF3F) ∨ (0xFF76 ≤ n ∧ n ≤ 0xFF77) → s.answer a = .collab .sound a)
    ∧ ((0xFF40 ≤ n ∧ n ≤ 0xFF4F ∧ n ≠ 0xFF4D) ∨ (n = 0xFF4D ∧ s.cgb = false) ∨ (0xFF51 ≤ n ∧ n ≤ 0xFF55)
        ∨ (0xFF68 ≤ n ∧ n ≤ 0xFF6C) → s.answer a = .collab .gpuHwio a)
    ∧ (n = 0xFF4D → s.cgb = true →
        s.answer a = .byte (BitVec.ofBool s.key1Speed ++ 0b000000#6 ++ BitVec.ofBool s.key1Prepare))
    ∧ (n = 0xFF50 → s.answer a = .byte 0xFF#8)
    ∧ (n = 0xFF70 → s.cgb = true → s.answer a = .byte (0b00000#5 ++ s.wramBank))
    ∧ (n = 0xFF70 → s.cgb = false → s.answer a = .byte 0xFF#8)
    ∧ (n = 0xFF03 ∨ (0xFF08 ≤ n ∧ n ≤ 0xFF0E) ∨ (0xFF56 ≤ n ∧ n ≤ 0xFF67) ∨ (0xFF6D ≤ n ∧ n ≤ 0xFF6F)
        ∨ (0xFF71 ≤ n ∧ n ≤ 0xFF75) ∨ (0xFF78 ≤ n ∧ n ≤ 0xFF7F) → s.answer a = .byte 0xFF#8)
    ∧ (n = 0xFFFF → s.answer a = .byte (0b000#3 ++ s.enabled))

/-- What a write does at every address that holds no byte of a store (R80, R82, R84, R85, R90 to R98, R442, R460). -/
def Obligations.RegisterWrites : Prop :=
  ∀ (s : State) (a : Word) (v : Byte),
    let n := a.toNat
    let low : BitVec 5 := v.setWidth 5
    (n = 0xFF04 → s.busWrite a v = some { s with timer := { s.timer with div := 0#8, divAcc := 0 } })
    ∧ (n = 0xFF05 → s.busWrite a v = some { s with timer := { s.timer with tima := v } })
    ∧ (n = 0xFF06 → s.busWrite a v = some { s with timer := { s.timer with tma := v } })
    ∧ (n = 0xFF07 →
        s.busWrite a v = some { s with timer := { s.timer with speed := v.setWidth 2, running := v.getLsbD 2 } })
    ∧ (n = 0xFF0F → s.busWrite a v = some { s with requested := low })
    ∧ (n = 0xFFFF → s.busWrite a v = some { s with enabled := low })
    ∧ (n = 0xFF4D → s.cgb = true → s.busWrite a v = some { s with key1Prepare := v.getLsbD 0 })
    ∧ (n = 0xFF50 → v.getLsbD 0 = true → s.busWrite a v = some { s with bootEnabled := false })
    ∧ (n = 0xFF50 → v.getLsbD 0 = false → s.busWrite a v = some s)
    ∧ (n = 0xFF70 → s.cgb = true → v.toNat % 8 = 0 → s.busWrite a v = some { s with wramBank := 1#3 })
    ∧ (n = 0xFF70 → s.cgb = true → v.toNat % 8 ≠ 0 → s.busWrite a v = some { s with wramBank := v.setWidth 3 })
    ∧ ((0x8000 ≤ n ∧ n < 0xA000) ∨ (0xFE00 ≤ n ∧ n ≤ 0xFF03) ∨ (0xFF08 ≤ n ∧ n ≤ 0xFF0E)
        ∨ (0xFF10 ≤ n ∧ n ≤ 0xFF4C) ∨ (n = 0xFF4D ∧ s.cgb = false) ∨ (0xFF4E ≤ n ∧ n ≤ 0xFF4F)
        ∨ (0xFF51 ≤ n ∧ n ≤ 0xFF6F) ∨ (n = 0xFF70 ∧ s.cgb = false) ∨ (0xFF71 ≤ n ∧ n ≤ 0xFF7F) →
        s.busWrite a v = some s)

/-- Work RAM is mirrored: an access at 0xE000 to 0xFDFF is the access 0x2000 below (R79). -/
def Obligations.EchoIsWorkRam : Prop :=
  ∀ (s : State) (a : Word) (v : Byte), 0xE000 ≤ a.toNat → a.toNat < 0xFE00 →
    s.mapAnswer a = s.mapAnswer (a - 0x2000#16) ∧ s.busWrite a v = s.busWrite (a - 0x2000#16) v

/-- A byte written to a store is what every address that shows it reads from then on, and every other address and cell
is as before; nothing else changes but the count of dirty bytes (R61, R77, R78, R81, R109, R128, R130). -/
def Obligations.WriteThenRead : Prop :=
  ∀ (s : State) (a : Word) (v : Byte) (c : Cell), s.wf = true → s.storedCell a = some c →
    ∃ u, s.busWrite a v = some u ∧ s.byteStored u a v
      ∧ u.mbc = { s.mbc with dirty := s.mbc.dirty + (match c with | .eram _ => 1 | _ => 0) }
      ∧ u.regs = s.regs ∧ u.ime = s.ime ∧ u.halted = s.halted ∧ u.fault = s.fault ∧ u.requested = s.requested
      ∧ u.enabled = s.enabled ∧ u.timer = s.timer ∧ u.wramBank = s.wramBank ∧ u.bootEnabled = s.bootEnabled
      ∧ u.rom = s.rom ∧ u.cycles = s.cycles
      ∧ (s.cheats.get? a.toNat = none → u.answer a = .byte v)

/-- Which cell an address of work RAM and of high RAM stores to (R77 to R79, R81), and that a store is the write and 4
cycles (R61). -/
def Obligations.StoredCells : Prop :=
  ∀ (s : State) (a : Word) (v : Byte) (site : FaultSite),
    let n := a.toNat
    let bank := if s.cgb = true then s.wramBank.toNat else 1
    (0xC000 ≤ n → n < 0xD000 → s.storedCell a = some (.wram (n - 0xC000)))
    ∧ (0xD000 ≤ n → n < 0xE000 → s.storedCell a = some (.wram (bank * 0x1000 + (n - 0xD000))))
    ∧ (0xE000 ≤ n → n < 0xF000 → s.storedCell a = some (.wram (n - 0xE000)))
    ∧ (0xF000 ≤ n → n < 0xFE00 → s.storedCell a = some (.wram (bank * 0x1000 + (n - 0xF000))))
    ∧ (0xFF80 ≤ n → n < 0xFFFF → s.storedCell a = some (.hram (n - 0xFF80)))
    ∧ ((n < 0xA000 ∨ (0xFE00 ≤ n ∧ n < 0xFF80) ∨ n = 0xFFFF) → s.storedCell a = none)
    ∧ ∀ u, s.busWrite a v = some u →
        s.memWrite site a v = .ok { u with cycles := u.cycles + 4, timerDebt := u.timerDebt + 4 }

/-! ## The cartridge -/

/-- A write below 0x8000 changes the controller's registers alone (R74), and it has no value exactly where it would
reduce a bank number by a count of 0 (R127). -/
def Obligations.RomWritesAreCommands : Prop :=
  ∀ (s : State) (a : Word) (v : Byte),
    (∀ u, a.toNat < 0x8000 → s.busWrite a v = some u →
      u = { s with mbc := u.mbc } ∧ u.mbc.kind = s.mbc.kind ∧ u.mbc.romBanks = s.mbc.romBanks
      ∧ u.mbc.dirty = s.mbc.dirty ∧ s.mbc.write a.toNat v = some u.mbc)
    ∧ (s.busWrite a v = none ↔ s.mbc.romBanks = 0 ∧ reducesBank s.mbc a.toNat)

/-- The registers of MBC1 (R111 to R114), with any bank count where no ROM bank is selected (R127). -/
def Obligations.Mbc1Registers : Prop :=
  ∀ (m : Mbc) (n : Nat) (v : Byte), m.kind = .mbc1 →
    (n < 0x2000 → m.write n v = some { m with ramEnable := decide (v.toNat % 16 = 0xA) })
    ∧ (0x2000 ≤ n → n < 0x4000 → m.romBanks ≠ 0 → m.romBanks ≤ 512 →
        ∃ b : BitVec 9, m.write n v = some { m with romBank := b }
        ∧ b.toNat = ((m.romBank.toNat &&& 0x60) ||| v.toNat % 32) % m.romBanks)
    ∧ (0x4000 ≤ n → n < 0x6000 → m.mode = true → m.write n v = some { m with ramBank := BitVec.ofNat 8 (v.toNat % 4) })
    ∧ (0x4000 ≤ n → n < 0x6000 → m.mode = false → m.romBanks ≠ 0 → m.romBanks ≤ 512 →
        ∃ b : BitVec 9, m.write n v = some { m with romBank := b }
        ∧ b.toNat = (v.toNat % 4 * 32 + m.romBank.toNat % 32) % m.romBanks)
    ∧ (0x6000 ≤ n → n < 0x8000 → m.write n v = some { m with mode := decide (v.toNat % 2 = 1) })

/-- The registers of NullMBC (R110), MBC3 (R116 to R119) and MBC5 (R120 to R123), with any bank count where no ROM bank is
selected (R127). -/
def Obligations.OtherControllers : Prop :=
  ∀ (m : Mbc) (n : Nat) (v : Byte),
    (m.kind = .null → n < 0x8000 → m.write n v = some m)
    ∧ (m.kind = .mbc3 →
      (n < 0x2000 → m.write n v = some { m with ramEnable := decide (v.toNat % 16 = 0xA) })
      ∧ (0x2000 ≤ n → n < 0x4000 → m.romBanks ≠ 0 → m.romBanks ≤ 512 →
          ∃ b : BitVec 9, m.write n v = some { m with romBank := b }
          ∧ b.toNat = (if v = 0#8 then 1 else v.toNat) % m.romBanks)
      ∧ (0x4000 ≤ n → n < 0x6000 →
          m.write n v = some { m with ramBank := v, rtcSelect := decide (0x08 ≤ v.toNat) })
      ∧ (0x6000 ≤ n → n < 0x8000 → m.write n v = some m))
    ∧ (m.kind = .mbc5 →
      (n < 0x2000 → m.write n v = some { m with ramEnable := decide (v = 0x0A#8) })
      ∧ (0x2000 ≤ n → n < 0x3000 → m.romBanks ≠ 0 → m.romBanks ≤ 512 →
          ∃ b : BitVec 9, m.write n v = some { m with romBank := b }
          ∧ b.toNat = (m.romBank.toNat / 256 * 256 + v.toNat) % m.romBanks)
      ∧ (0x3000 ≤ n → n < 0x4000 → m.romBanks ≠ 0 → m.romBanks ≤ 512 →
          ∃ b : BitVec 9, m.write n v = some { m with romBank := b }
          ∧ b.toNat = (v.toNat % 2 * 256 + m.romBank.toNat % 256) % m.romBanks)
      ∧ (0x4000 ≤ n → n < 0x6000 → m.write n v = some { m with ramBank := BitVec.ofNat 8 (v.toNat % 16) })
      ∧ (0x6000 ≤ n → n < 0x8000 → m.write n v = some m))

/-- The modulo law (R126): after any sequence of writes the selected bank is below the bank count. -/
def Obligations.ModuloLaw : Prop :=
  ∀ (ws : List (Nat × Byte)) (m : Mbc), m.romBanks > 0 → m.romBank.toNat < m.romBanks →
    ∃ m', controllerWrites ws m = some m' ∧ m'.romBank.toNat < m'.romBanks ∧ m'.romBanks = m.romBanks
      ∧ m'.kind = m.kind

/-- External RAM and the clock at 0xA000 to 0xBFFF (R76, R109, R110, R115, R118, R124, R128). -/
def Obligations.ExternalRam : Prop :=
  ∀ (s : State) (a : Word) (v : Byte), 0xA000 ≤ a.toNat → a.toNat < 0xC000 →
    let off := (s.mbc.ramBank.toNat * 0x2000 + (a.toNat - 0xA000)) % 131072
    let clock := s.mbc.kind = .mbc3 ∧ s.mbc.rtcSelect = true
    (s.mbc.kind = .null → s.mapAnswer a = .byte 0x00#8 ∧ s.busWrite a v = some s)
    ∧ (s.mbc.kind ≠ .null → s.mbc.ramEnable = false → s.mapAnswer a = .byte 0xFF#8 ∧ s.busWrite a v = some s)
    ∧ (s.mbc.kind ≠ .null → s.mbc.ramEnable = true → ¬ clock →
        s.mapAnswer a = .byte (s.readCell (.eram off)) ∧ s.storedCell a = some (.eram off)
        ∧ ∃ u, s.busWrite a v = some u ∧ u.mbc = { s.mbc with dirty := s.mbc.dirty + 1 }
          ∧ (s.wf = true → u.readCell (.eram off) = v ∧ ∀ d, d ≠ .eram off → u.readCell d = s.readCell d))
    ∧ (s.mbc.ramEnable = true → clock → s.mapAnswer a = .clock s.mbc.ramBank ∧ s.busWrite a v = some s)

/-! ## Interrupts -/

/-- Requests are masked at the source (R412), for all five sources, and collaborators attempt the four that are not the
Timer's (R461), several in order. That their attempts are the head of the field `arrivals`, taken at the start of a step,
is the model's form (log 10). -/
def Obligations.AttemptIsMasked : Prop :=
  (∀ (s : State) (i : Source),
    (s.enabled.getLsbD i.index = true → s.attempt i = { s with requested := s.requested ||| 1#5 <<< i.index })
    ∧ (s.enabled.getLsbD i.index = false → s.attempt i = s))
  ∧ (Source.vblank.index = 0 ∧ Source.lcdStat.index = 1 ∧ Source.timer.index = 2 ∧ Source.serial.index = 3
      ∧ Source.joypad.index = 4)
  ∧ (Attempt.vblank.source = .vblank ∧ Attempt.lcdStat.source = .lcdStat ∧ Attempt.serial.source = .serial
      ∧ Attempt.joypad.source = .joypad)
  ∧ (∀ s : State, s.attemptAll [] = s)
  ∧ (∀ (s : State) (i : Attempt) (is : List Attempt), s.attemptAll (i :: is) = (s.attempt i.source).attemptAll is)
  ∧ (∀ s : State, step s = stepPhases s.takeArrivals)
  ∧ (∀ s : State, s.arrivals = [] → s.takeArrivals = s)
  ∧ (∀ (s : State) (now : List Attempt) (later : List (List Attempt)), s.arrivals = now :: later →
      s.takeArrivals = State.attemptAll { s with arrivals := later } now)
  ∧ ∀ s : State, s.takeArrivals.arrivals = s.arrivals.drop 1
      ∧ s.takeArrivals = { s with requested := s.takeArrivals.requested, arrivals := s.takeArrivals.arrivals }
      ∧ ∀ i : Source, s.takeArrivals.requested.getLsbD i.index = (s.requested.getLsbD i.index
          || (s.enabled.getLsbD i.index && (s.arrivals.headD []).any fun j => decide (j.source = i)))

/-- Dispatch (R414 to R416): with IME set and a pending source, the lowest one is taken: IME and its request bit are
cleared, PC is pushed high byte first, PC is its vector, 20 cycles, and nothing else changes (that a pending EI stays
pending is log 25); otherwise nothing happens. A push that the bus does not accept raises CoreFault(BankCountZero) with
the PC being pushed, opcode 0x00 and the address and value (R400); PC is not advanced, the controller and every byte are
as they were before that write (R401), and the general registers and flags as before the dispatch. -/
def Obligations.Dispatch : Prop :=
  (∀ s : State, (s.ime = false ∨ s.requested &&& s.enabled = 0#5) → s.service = s)
  ∧ (Source.vblank.vector = 0x0040#16 ∧ Source.lcdStat.vector = 0x0048#16 ∧ Source.timer.vector = 0x0050#16
      ∧ Source.serial.vector = 0x0058#16 ∧ Source.joypad.vector = 0x0060#16)
  ∧ (∀ (s u1 u2 : State) (i : Source), s.ime = true →
      (s.requested &&& s.enabled).getLsbD i.index = true →
      (∀ j : Source, j.index < i.index → (s.requested &&& s.enabled).getLsbD j.index = false) →
      State.busWrite { s with ime := false, requested := s.requested &&& ~~~(1#5 <<< i.index) }
        (s.regs.sp - 1#16) (hiByte s.regs.pc) = some u1 →
      u1.busWrite (s.regs.sp - 2#16) (loByte s.regs.pc) = some u2 →
      s.service = (u2.setRegs { s.regs with sp := s.regs.sp - 2#16, pc := i.vector }).spend 20)
  ∧ (∀ s : State, s.ime = true → s.requested &&& s.enabled ≠ 0#5 → s.service.ime = false)
  ∧ (∀ (s : State) (i : Source), s.ime = true →
      (s.requested &&& s.enabled).getLsbD i.index = true →
      (∀ j : Source, j.index < i.index → (s.requested &&& s.enabled).getLsbD j.index = false) →
      State.busWrite { s with ime := false, requested := s.requested &&& ~~~(1#5 <<< i.index) }
        (s.regs.sp - 1#16) (hiByte s.regs.pc) = none →
      let t := s.service
      t.fault = some ⟨.bankCountZero, s.regs.pc, 0x00#8, some (s.regs.sp - 1#16, hiByte s.regs.pc)⟩
      ∧ t.regs.pc = s.regs.pc ∧ s.regs.keep t.regs [] ∧ t.regs.f = s.regs.f ∧ t.ime = false
      ∧ t.requested = s.requested &&& ~~~(1#5 <<< i.index) ∧ t.halted = s.halted ∧ t.totalI = s.totalI
      ∧ t.mbc = s.mbc ∧ State.sameMemory { s with requested := t.requested } t ∧ ∀ c, t.readCell c = s.readCell c)
  ∧ ∀ (s u1 : State) (i : Source), s.ime = true →
      (s.requested &&& s.enabled).getLsbD i.index = true →
      (∀ j : Source, j.index < i.index → (s.requested &&& s.enabled).getLsbD j.index = false) →
      State.busWrite { s with ime := false, requested := s.requested &&& ~~~(1#5 <<< i.index) }
        (s.regs.sp - 1#16) (hiByte s.regs.pc) = some u1 →
      u1.busWrite (s.regs.sp - 2#16) (loByte s.regs.pc) = none →
      let t := s.service
      t.fault = some ⟨.bankCountZero, s.regs.pc, 0x00#8, some (s.regs.sp - 2#16, loByte s.regs.pc)⟩
      ∧ t.regs.pc = s.regs.pc ∧ s.regs.keep t.regs [] ∧ t.regs.f = s.regs.f ∧ t.ime = false
      ∧ t.requested = u1.requested ∧ t.halted = s.halted ∧ t.totalI = s.totalI
      ∧ t.mbc = u1.mbc ∧ u1.sameMemory t ∧ ∀ c, t.readCell c = u1.readCell c

/-- EI's delay (R324, R522): the step of EI leaves IME alone and dispatches nothing if IME was 0; in the next step IME
is set before the instruction executes, as if it had been set all along. `takeArrivals` is what collaborators do before
the step (log 10). -/
def Obligations.EiDelay : Prop :=
  (∀ s₀ : State,
    let s := s₀.takeArrivals
    s.canFetch → s.peek s.regs.pc = 0xFB#8 → s.ime = false → s.eiPending = false →
    ∃ t, step s₀ = .next t ∧ t.ime = false ∧ t.eiPending = true ∧ t.regs = { s.regs with pc := s.regs.pc + 1#16 })
  ∧ ∀ s : State, s.eiPending = true → step s = step { s with ime := true, eiPending := false }

/-- Every halted step (R430 phases 1 to 6, R432, R464). It costs 4 cycles with no access and advances the Timer, running
or not. It sleeps on exactly if nothing is requested after that (R432 c), and else wakes, whatever IME and the enables
are, and goes to the dispatch phase in the same step (R432 a); with IME = 0 and no pending EI it goes on without a
dispatch (R432 b). `takeArrivals` is what collaborators do before the step (log 10). -/
def Obligations.HaltedStep : Prop :=
  ∀ s₀ : State,
    let s := s₀.takeArrivals
    let u : State := { State.timerAdvance (s.activateEi.spend 4) (s.timerDebt + 4) with timerDebt := 0 }
    s.fault = none → s.halted = true → s.breakpoints.contains s.regs.pc = false →
    step s₀ = .next s.activateEi.idle.finishStep
    ∧ (u.requested = 0#5 → step s₀ = .next u)
    ∧ (u.requested ≠ 0#5 → step s₀ = .next (State.service { u with halted := false }))
    ∧ (s.timer.running = false → s.requested = 0#5 →
      step s₀ = .next { s with
        ime := s.ime || s.eiPending
        eiPending := false
        stopped := false
        cycles := s.cycles + 4
        timerDebt := 0
        timer := s.timer.advanceDiv (s.timerDebt + 4) })
    ∧ (s.requested ≠ 0#5 → ∃ t, step s₀ = .next t ∧ t.halted = false ∧ t.totalI = s.totalI)
    ∧ (s.requested ≠ 0#5 → s.ime = false → s.eiPending = false →
      ∃ t, step s₀ = .next t ∧ t.halted = false ∧ t.regs = s.regs ∧ t.cycles = s.cycles + 4 ∧ t.totalI = s.totalI
        ∧ t.ime = false ∧ (∀ c, t.readCell c = s.readCell c))
    ∧ ((s.ime = true ∨ s.eiPending = true) → s.requested &&& s.enabled ≠ 0#5 →
      ∃ t, step s₀ = .next t ∧ t.halted = false ∧ t.ime = false ∧ t.totalI = s.totalI)

/-! ## The Timer -/

/-- The Timer's advance is the two loops of R443. -/
def Obligations.TimerAdvanceIsTheLoops : Prop :=
  ∀ (s : State) (n : Nat), s.timerAdvance n = advanceLoops s n

/-! ## Reset and the host operations -/

/-- The state after reset at power-on has the values of R50 (column "no boot ROM"), R501 and R502. That ROM is empty
there is the model's choice (log 1). -/
def Obligations.ResetValues : Prop :=
  let s := State.reset
  s.regs = ⟨0x11#8, 0x00#8, 0x13#8, 0x00#8, 0xD8#8, 0x01#8, 0x4D#8, ⟨true, false, true, true⟩, 0xFFFE#16, 0x0100#16⟩
  ∧ s.bootEnabled = false ∧ s.cycles = 0 ∧ s.totalI = 0 ∧ s.ime = false ∧ s.eiPending = false ∧ s.halted = false
  ∧ s.fault = none ∧ s.requested = 0#5 ∧ s.enabled = 0#5 ∧ s.timer = ⟨0#8, 0#8, 0#8, 0#2, false, 0, 0⟩
  ∧ s.timerDebt = 0 ∧ s.wramBank = 1#3 ∧ s.key1Prepare = false ∧ s.key1Speed = false ∧ s.mbc.romBank = 1#9
  ∧ s.mbc.ramBank = 0#8 ∧ s.mbc.ramEnable = false ∧ s.mbc.mode = false ∧ s.mbc.rtcSelect = false ∧ s.mbc.dirty = 0
  ∧ ∀ off, s.readCell (.eram off) = 0xFF#8

/-- Reset (R500) sets every piece of state of R50 from any state, in the column that the boot image selects, and leaves
the stores, the parameters and the debug sets alone. That the count of dirty bytes is as before, which only a flush and
an insertion clear by R128, where R50 has a row with 0, is the model's reading (log 17). -/
def Obligations.ResetOperation : Prop :=
  ∀ s : State,
    let t := s.resetOp
    (s.boot.isSome = false →
      t.regs = ⟨0x11#8, 0x00#8, 0x13#8, 0x00#8, 0xD8#8, 0x01#8, 0x4D#8, ⟨true, false, true, true⟩, 0xFFFE#16,
        0x0100#16⟩ ∧ t.bootEnabled = false)
    ∧ (s.boot.isSome = true →
      t.regs = ⟨0#8, 0#8, 0#8, 0#8, 0#8, 0#8, 0#8, ⟨false, false, false, false⟩, 0#16, 0#16⟩ ∧ t.bootEnabled = true)
    ∧ t.cycles = 0 ∧ t.totalI = 0 ∧ t.ime = false ∧ t.eiPending = false ∧ t.halted = false ∧ t.fault = none
    ∧ t.requested = 0#5 ∧ t.enabled = 0#5 ∧ t.timer = ⟨0#8, 0#8, 0#8, 0#2, false, 0, 0⟩ ∧ t.timerDebt = 0
    ∧ t.wramBank = 1#3 ∧ t.key1Prepare = false ∧ t.key1Speed = false
    ∧ t.mbc = ⟨s.mbc.kind, s.mbc.romBanks, 1#9, 0#8, false, false, false, s.mbc.dirty⟩
    ∧ t.rom = s.rom ∧ t.boot = s.boot ∧ t.eram = s.eram ∧ t.wram = s.wram ∧ t.hram = s.hram ∧ t.cgb = s.cgb
    ∧ t.title = s.title ∧ t.cheats = s.cheats ∧ t.breakpoints = s.breakpoints

/-- Inserting a cartridge (R510, R511, with R106 to R108): the image, the header's four fields, reset, and external RAM
from the persisted image. That the image is an argument (log 11) and the title the fifteen raw header bytes (log 26) is
the model's form. -/
def Obligations.InsertCartridge : Prop :=
  (∀ (s : State) (img : List Byte) (saved : Option (List Byte)), img.length > 4194304 →
    s.insertCartridge img saved = none)
  ∧ (∀ (s : State) (img : List Byte) (saved : Option (List Byte)), img.length ≤ 4194304 →
    ∃ t, s.insertCartridge img saved = some t
      ∧ (∀ off, t.readCell (.rom off) = img.getD off 0x00#8)
      ∧ t.mbc = ⟨mbcKindOf (img.getD 0x147 0#8), romBanksOf (img.getD 0x148 0#8), 1#9, 0#8, false, false, false, 0⟩
      ∧ t.cgb = (img.getD 0x143 0#8).getLsbD 7
      ∧ t.title = (List.range 15).map (fun k => img.getD (0x134 + k) 0#8)
      ∧ { t with eram := s.eram } = State.resetOp { s with rom := t.rom, mbc := t.mbc, title := t.title, cgb := t.cgb }
      ∧ ((saved = none ∨ t.mbc.kind = .null) → t.eram = s.eram)
      ∧ ∀ ram, saved = some ram → t.mbc.kind ≠ .null → ∀ off, off < 131072 →
          t.readCell (.eram off) = ram.getD off 0x00#8)
  ∧ (∀ v : Byte, mbcKindOf v =
      if v.toNat ∈ [0x01, 0x02, 0x03] then .mbc1
      else if v.toNat ∈ [0x0F, 0x10, 0x11, 0x12, 0x13] then .mbc3
      else if v.toNat ∈ [0x19, 0x1A, 0x1B, 0x1C, 0x1D, 0x1E] then .mbc5
      else .null)
  ∧ ∀ v : Byte, romBanksOf v =
      if v.toNat ≤ 0x08 then 2 * 2 ^ v.toNat
      else if v = 0x52#8 then 72 else if v = 0x53#8 then 80 else if v = 0x54#8 then 96 else 0

/-- Removing the cartridge (R512) and flushing external RAM (R513). That a flush hands out the image (log 11) and the
title as raw bytes (log 26) is the model's form. -/
def Obligations.RemoveAndFlush : Prop :=
  (∀ s : State,
    let t := s.removeCartridge
    t.mbc.kind = .null ∧ t.mbc.romBank = 1#9 ∧ t.mbc.romBanks = s.mbc.romBanks
    ∧ (∀ off, off < 0x8000 → t.readCell (.rom off) = 0xFF#8)
    ∧ (∀ off, 0x8000 ≤ off → t.readCell (.rom off) = s.readCell (.rom off))
    ∧ t = { s with rom := t.rom, mbc := t.mbc })
  ∧ (∀ s : State, s.mbc.dirty = 0 → s.flushSram = (none, s))
  ∧ ∀ s : State, s.mbc.dirty ≠ 0 →
      s.flushSram = (some (s.title, s.eram), { s with mbc := { s.mbc with dirty := 0 } })

/-- The host's debug sets (R450, R451): the breakpoint operations on the set of addresses, and the cheat overlay, which
answers every read of its address and lets every write pass. -/
def Obligations.DebugSets : Prop :=
  ∀ (s : State) (a b : Word) (v w : Byte),
    (s.setBreakpoint a = { s with breakpoints := (s.setBreakpoint a).breakpoints }
      ∧ (b ∈ (s.setBreakpoint a).breakpoints ↔ b = a ∨ b ∈ s.breakpoints))
    ∧ (s.clearBreakpoint a = { s with breakpoints := (s.clearBreakpoint a).breakpoints }
      ∧ (b ∈ (s.clearBreakpoint a).breakpoints ↔ b ≠ a ∧ b ∈ s.breakpoints))
    ∧ (s.toggleBreakpoint a = { s with breakpoints := (s.toggleBreakpoint a).breakpoints }
      ∧ (b ∈ (s.toggleBreakpoint a).breakpoints ↔ (b = a ∧ a ∉ s.breakpoints) ∨ (b ≠ a ∧ b ∈ s.breakpoints)))
    ∧ (s.setCheat a v).answer a = .byte v
    ∧ (b ≠ a → (s.setCheat a v).answer b = s.answer b)
    ∧ (s.setCheat a v).busWrite b w = (s.busWrite b w).map (fun u => u.setCheat a v)
    ∧ (s.wf = true → (s.clearCheat a).answer a = s.mapAnswer a)
    ∧ (b ≠ a → (s.clearCheat a).answer b = s.answer b)

/-! ## Invariants of every step -/

/-- Every step from a state in which the stores are canonical and the bounded registers are within their bounds answers
such a state. -/
def Obligations.StepKeepsWf : Prop :=
  ∀ s t : State, s.wf = true → step s = .next t → t.wf = true

/-- The invariant holds after reset. -/
def Obligations.ResetIsWf : Prop := State.reset.wf = true

/-- Every host operation (R450, R451, R500, R510 to R513) keeps the invariant. -/
def Obligations.HostOpsKeepWf : Prop :=
  ∀ (s : State) (a : Word) (v : Byte) (img : List Byte) (saved : Option (List Byte)), s.wf = true →
    s.resetOp.wf = true
    ∧ (∀ t, s.insertCartridge img saved = some t → t.wf = true)
    ∧ s.removeCartridge.wf = true
    ∧ s.flushSram.2.wf = true
    ∧ (s.setBreakpoint a).wf = true ∧ (s.clearBreakpoint a).wf = true ∧ (s.toggleBreakpoint a).wf = true
    ∧ (s.setCheat a v).wf = true ∧ (s.clearCheat a).wf = true

/-- No step changes the parameters, the ROM image, the boot image or the debug sets, and the boot overlay is never shown
again once it is off (R7, R74, R91, R450, R451, R526). -/
def Obligations.StepKeepsParameters : Prop :=
  ∀ s t : State, step s = .next t →
    t.rom = s.rom ∧ t.boot = s.boot ∧ t.mbc.kind = s.mbc.kind ∧ t.mbc.romBanks = s.mbc.romBanks ∧ t.cgb = s.cgb
    ∧ t.title = s.title ∧ t.cheats = s.cheats ∧ t.breakpoints = s.breakpoints
    ∧ (s.bootEnabled = false → t.bootEnabled = false)

/-- A step spends a multiple of 4 cycles, at most those of the longest instruction and a dispatch (R431, R530, R532),
and counts at most one instruction (R45). -/
def Obligations.StepCycles : Prop :=
  ∀ s t : State, step s = .next t →
    (∃ k, k ≤ 11 ∧ t.cycles = s.cycles + 4 * k) ∧ (t.totalI = s.totalI ∨ t.totalI = s.totalI + 1)

/-- No program can read the counters of cycles and of instructions (R44, R45, R452): two states that differ in them
alone step to states that differ in them alone, by the same amounts. -/
def Obligations.CountersAreInvisible : Prop :=
  ∀ (s t : State) (n m : Nat), step s = .next t → step (addCounters s n m) = .next (addCounters t n m)
end

