-- ==== Sys2Proof/Laws/Memory.lean ====
section
/-! SUPPORT. Sparse stores: a read after a write, what a write leaves alone, and that every operation keeps the
canonical form. -/

namespace Sys2Proof.Machine

/-! ### Reading after writing -/

@[simp] theorem Memory.get?_insert_same (m : Memory) (a : Nat) (v : Byte) : (m.insert a v).get? a = some v := by
  induction m with
  | nil => simp [Memory.insert, Memory.get?]
  | cons kw m ih =>
    obtain ⟨k, w⟩ := kw
    simp only [Memory.insert]
    split
    · simp [Memory.get?]
    · split
      · simp [Memory.get?]
      · rename_i h
        simp only [Memory.get?]
        rw [if_neg (fun e => h e.symm), ih]

theorem Memory.get?_insert_other (m : Memory) {a b : Nat} (v : Byte) (h : b ≠ a) :
    (m.insert a v).get? b = m.get? b := by
  induction m with
  | nil => simp [Memory.insert, Memory.get?, h.symm]
  | cons kw m ih =>
    obtain ⟨k, w⟩ := kw
    simp only [Memory.insert]
    split
    · simp [Memory.get?, h.symm]
    · split
      · rename_i e
        subst e
        simp [Memory.get?, h.symm]
      · simp only [Memory.get?, ih]

theorem Memory.get?_erase_other (m : Memory) {a b : Nat} (h : b ≠ a) : (m.erase a).get? b = m.get? b := by
  induction m with
  | nil => rfl
  | cons kw m ih =>
    obtain ⟨k, w⟩ := kw
    simp only [Memory.erase]
    split
    · rename_i e
      subst e
      simp [Memory.get?, h.symm]
    · simp only [Memory.get?, ih]

/-- Below its first offset a rising store lists nothing. -/
theorem Memory.get?_of_risesFrom {m : Memory} {low a : Nat} (h : m.risesFrom low = true) (ha : a < low) :
    m.get? a = none := by
  induction m generalizing low with
  | nil => rfl
  | cons kw m ih =>
    obtain ⟨k, w⟩ := kw
    simp only [Memory.risesFrom, Bool.and_eq_true, decide_eq_true_eq] at h
    simp only [Memory.get?]
    rw [if_neg (by omega), ih h.2 (by omega)]

theorem Memory.get?_erase_same {m : Memory} {low : Nat} (a : Nat) (h : m.risesFrom low = true) :
    (m.erase a).get? a = none := by
  induction m generalizing low with
  | nil => rfl
  | cons kw m ih =>
    obtain ⟨k, w⟩ := kw
    simp only [Memory.risesFrom, Bool.and_eq_true, decide_eq_true_eq] at h
    simp only [Memory.erase]
    split
    · rename_i e
      exact Memory.get?_of_risesFrom h.2 (by omega)
    · rename_i e
      simp only [Memory.get?, if_neg e, ih h.2]

/-- A write leaves every other offset alone. -/
theorem Memory.get?_write_other (m : Memory) (u : Option Byte) {a b : Nat} (v : Byte) (h : b ≠ a) :
    (m.write u a v).get? b = m.get? b := by
  unfold Memory.write
  split
  · exact m.get?_erase_other h
  · exact m.get?_insert_other v h

/-- A write to a rising store is what a read of the offset gives. -/
theorem Memory.getD_write_same {m : Memory} (u : Option Byte) (a : Nat) (v d : Byte) (h : m.risesFrom 0 = true)
    (hd : ∀ x, u = some x → d = x) : ((m.write u a v).get? a).getD d = v := by
  unfold Memory.write
  split
  · rename_i e
    rw [m.get?_erase_same a h, hd v e]
    rfl
  · rw [m.get?_insert_same]
    rfl

/-! ### The canonical form -/

theorem Memory.risesFrom_mono {m : Memory} {low low' : Nat} (h : m.risesFrom low = true) (hl : low' ≤ low) :
    m.risesFrom low' = true := by
  cases m with
  | nil => rfl
  | cons kw m =>
    obtain ⟨k, w⟩ := kw
    simp only [Memory.risesFrom, Bool.and_eq_true, decide_eq_true_eq] at h ⊢
    exact ⟨by omega, h.2⟩

theorem Memory.risesFrom_insert {m : Memory} {low : Nat} (a : Nat) (v : Byte) (h : m.risesFrom low = true)
    (ha : low ≤ a) : (m.insert a v).risesFrom low = true := by
  induction m generalizing low with
  | nil => simp [Memory.insert, Memory.risesFrom, ha]
  | cons kw m ih =>
    obtain ⟨k, w⟩ := kw
    simp only [Memory.risesFrom, Bool.and_eq_true, decide_eq_true_eq] at h
    simp only [Memory.insert]
    split
    · simp only [Memory.risesFrom, Bool.and_eq_true, decide_eq_true_eq]
      exact ⟨ha, by omega, h.2⟩
    · split
      · rename_i e
        subst e
        simp only [Memory.risesFrom, Bool.and_eq_true, decide_eq_true_eq]
        exact ⟨ha, h.2⟩
      · simp only [Memory.risesFrom, Bool.and_eq_true, decide_eq_true_eq]
        exact ⟨h.1, ih h.2 (by omega)⟩

theorem Memory.risesFrom_erase {m : Memory} {low : Nat} (a : Nat) (h : m.risesFrom low = true) :
    (m.erase a).risesFrom low = true := by
  induction m generalizing low with
  | nil => rfl
  | cons kw m ih =>
    obtain ⟨k, w⟩ := kw
    simp only [Memory.risesFrom, Bool.and_eq_true, decide_eq_true_eq] at h
    simp only [Memory.erase]
    split
    · exact Memory.risesFrom_mono h.2 (by omega)
    · simp only [Memory.risesFrom, Bool.and_eq_true, decide_eq_true_eq]
      exact ⟨h.1, ih h.2⟩

theorem Memory.all_insert {m : Memory} {p : Host.Cell → Bool} (a : Nat) (v : Byte) (h : m.all p = true)
    (ha : p (a, v) = true) : (m.insert a v).all p = true := by
  induction m with
  | nil => simp [Memory.insert, ha]
  | cons kw m ih =>
    obtain ⟨k, w⟩ := kw
    simp only [List.all_cons, Bool.and_eq_true] at h
    simp only [Memory.insert]
    split
    · simp only [List.all_cons, Bool.and_eq_true]
      exact ⟨ha, h⟩
    · split
      · simp only [List.all_cons, Bool.and_eq_true]
        exact ⟨ha, h.2⟩
      · simp only [List.all_cons, Bool.and_eq_true]
        exact ⟨h.1, ih h.2⟩

theorem Memory.all_erase {m : Memory} {p : Host.Cell → Bool} (a : Nat) (h : m.all p = true) :
    (m.erase a).all p = true := by
  induction m with
  | nil => rfl
  | cons kw m ih =>
    obtain ⟨k, w⟩ := kw
    simp only [List.all_cons, Bool.and_eq_true] at h
    simp only [Memory.erase]
    split
    · exact h.2
    · simp only [List.all_cons, Bool.and_eq_true]
      exact ⟨h.1, ih h.2⟩

/-- A write within a store's size keeps its canonical form. -/
theorem Memory.wf_write {size : Nat} {u : Option Byte} {m : Memory} (a : Nat) (v : Byte)
    (h : m.wf size u = true) (ha : a < size) : (m.write u a v).wf size u = true := by
  simp only [Memory.wf, Bool.and_eq_true] at h ⊢
  unfold Memory.write
  split
  · exact ⟨Memory.risesFrom_erase a h.1, Memory.all_erase a h.2⟩
  · rename_i e
    refine ⟨Memory.risesFrom_insert a v h.1 (Nat.zero_le _), Memory.all_insert a v h.2 ?_⟩
    simp only [Bool.and_eq_true, decide_eq_true_eq]
    exact ⟨ha, e⟩

theorem Memory.risesFrom_ofBytes (u : Option Byte) (base : Nat) (vs : List Byte) :
    (Memory.ofBytes u base vs).risesFrom base = true := by
  induction vs generalizing base with
  | nil => rfl
  | cons v vs ih =>
    simp only [Memory.ofBytes]
    split
    · exact Memory.risesFrom_mono (ih (base + 1)) (by omega)
    · simp only [Memory.risesFrom, Bool.and_eq_true, decide_eq_true_eq]
      exact ⟨Nat.le_refl _, ih (base + 1)⟩

theorem Memory.all_ofBytes (u : Option Byte) (base size : Nat) (vs : List Byte) (h : base + vs.length ≤ size) :
    ((Memory.ofBytes u base vs).all fun kv => decide (kv.1 < size) && decide (u ≠ some kv.2)) = true := by
  induction vs generalizing base with
  | nil => rfl
  | cons v vs ih =>
    simp only [List.length_cons] at h
    simp only [Memory.ofBytes]
    split
    · exact ih (base + 1) (by omega)
    · rename_i e
      simp only [List.all_cons, Bool.and_eq_true, decide_eq_true_eq]
      exact ⟨⟨by omega, e⟩, ih (base + 1) (by omega)⟩

/-- The store made from a list of bytes is canonical. -/
theorem Memory.wf_ofBytes (u : Option Byte) (size : Nat) (vs : List Byte) (h : vs.length ≤ size) :
    (Memory.ofBytes u 0 vs).wf size u = true := by
  simp only [Memory.wf, Bool.and_eq_true]
  exact ⟨Memory.risesFrom_ofBytes u 0 vs, Memory.all_ofBytes u 0 size vs (by omega)⟩

/-- A store made from a list of bytes holds them, and what it does not list below its first offset. -/
theorem Memory.getD_ofBytes (u : Option Byte) (d : Byte) (hd : ∀ x, u = some x → d = x) (base k : Nat)
    (vs : List Byte) : ((Memory.ofBytes u base vs).get? (base + k)).getD d = vs.getD k d := by
  induction vs generalizing base k with
  | nil => simp [Memory.ofBytes, Memory.get?]
  | cons v vs ih =>
    have low : (Memory.ofBytes u (base + 1) vs).get? base = none :=
      Memory.get?_of_risesFrom (Memory.risesFrom_ofBytes u (base + 1) vs) (by omega)
    cases k with
    | zero =>
      simp only [Memory.ofBytes, Nat.add_zero]
      split
      · rename_i e
        rw [low, hd v e]
        rfl
      · simp [Memory.get?]
    | succ k =>
      have step := ih (base + 1) k
      rw [show base + 1 + k = base + (k + 1) by omega] at step
      simp only [Memory.ofBytes]
      split
      · rw [step]
        rfl
      · simp only [Memory.get?]
        rw [if_neg (by omega), step]
        rfl

/-! ### The machine's stores -/

/-- The size of the store that holds a cell. -/
def Cell.inRange : Cell → Bool
  | .rom off => decide (off < Config.romCapacity)
  | .boot off => decide (off < Config.bootSize)
  | .eram off => decide (off < Config.eramCapacity)
  | .wram off => decide (off < Config.wramCapacity)
  | .hram off => decide (off < Config.hramSize)

/-- A byte written into a store other than the boot image is what reading the cell gives. -/
theorem State.readCell_writeCell_same (s : State) (c : Cell) (v : Byte) (h : s.storesWf = true)
    (hb : ∀ off, c ≠ .boot off) : (s.writeCell c v).readCell c = v := by
  simp only [State.storesWf, Memory.wf, Bool.and_eq_true] at h
  obtain ⟨⟨⟨⟨⟨hr, _⟩, he⟩, hw⟩, hh⟩, _⟩ := h
  cases c with
  | boot off => exact absurd rfl (hb off)
  | rom off => exact Memory.getD_write_same _ off v _ hr.1 (by simp [Cell.unlisted, Cell.powerOn])
  | eram off => exact Memory.getD_write_same _ off v _ he.1 (by simp [Cell.unlisted, Cell.powerOn])
  | wram off => exact Memory.getD_write_same none off v _ hw.1 (by simp)
  | hram off => exact Memory.getD_write_same none off v _ hh.1 (by simp)

/-- Writing one cell leaves every other cell alone. -/
theorem State.readCell_writeCell_other (s : State) {c d : Cell} (v : Byte) (h : d ≠ c) :
    (s.writeCell c v).readCell d = s.readCell d := by
  cases c <;> cases d <;> try rfl
  all_goals
    rename_i a b
    have hab : b ≠ a := fun e => h (by rw [e])
  · simp only [State.writeCell, State.readCell, Cell.store]
    rw [Memory.get?_write_other _ _ _ hab]
  · simp only [State.writeCell, State.readCell, Cell.store]
    cases s.boot with
    | none => rfl
    | some m =>
      simp only [Option.map_some, Option.getD_some]
      rw [Memory.get?_write_other _ _ _ hab]
  · simp only [State.writeCell, State.readCell, Cell.store]
    rw [Memory.get?_write_other _ _ _ hab]
  · simp only [State.writeCell, State.readCell, Cell.store]
    rw [Memory.get?_write_other _ _ _ hab]
  · simp only [State.writeCell, State.readCell, Cell.store]
    rw [Memory.get?_write_other _ _ _ hab]

/-- Writing a cell within its store keeps every store canonical. -/
theorem State.storesWf_writeCell {s : State} {c : Cell} (v : Byte) (h : s.storesWf = true)
    (hc : c.inRange = true) : (s.writeCell c v).storesWf = true := by
  simp only [State.storesWf, Bool.and_eq_true] at h ⊢
  obtain ⟨⟨⟨⟨⟨hr, hb⟩, he⟩, hw⟩, hh⟩, hk⟩ := h
  cases c with
  | rom off =>
    exact ⟨⟨⟨⟨⟨Memory.wf_write off v hr (by simpa [Cell.inRange] using hc), hb⟩, he⟩, hw⟩, hh⟩, hk⟩
  | boot off =>
    refine ⟨⟨⟨⟨⟨hr, ?_⟩, he⟩, hw⟩, hh⟩, hk⟩
    cases hbo : s.boot with
    | none => simp [State.writeCell, hbo, Memory.wf, Memory.risesFrom]
    | some m =>
      rw [hbo] at hb
      simp only [State.writeCell, hbo, Option.map_some, Option.getD_some] at hb ⊢
      exact Memory.wf_write off v hb (by simpa [Cell.inRange] using hc)
  | eram off =>
    exact ⟨⟨⟨⟨⟨hr, hb⟩, Memory.wf_write off v he (by simpa [Cell.inRange] using hc)⟩, hw⟩, hh⟩, hk⟩
  | wram off =>
    exact ⟨⟨⟨⟨⟨hr, hb⟩, he⟩, Memory.wf_write off v hw (by simpa [Cell.inRange] using hc)⟩, hh⟩, hk⟩
  | hram off =>
    exact ⟨⟨⟨⟨⟨hr, hb⟩, he⟩, hw⟩, Memory.wf_write off v hh (by simpa [Cell.inRange] using hc)⟩, hk⟩

/-- The cheat overlay's write keeps it canonical. -/
theorem Memory.wf_cheat_write {m : Memory} (a : Word) (v : Byte) (h : m.wf 0x10000 none = true) :
    (m.write none a.toNat v).wf 0x10000 none = true := Memory.wf_write _ v h a.isLt

/-- The memory after reset is canonical. -/
theorem State.storesWf_reset : State.reset.storesWf = true := by decide

end Sys2Proof.Machine
end

