-- ==== Sys2Proof/Laws/State.lean ====
section
/-! SUPPORT. The state updates that meanings are made of: what each leaves in every field, and how they commute. Every
meaning so comes to the form `((s.setRegs r).drew k).spend n`. -/

namespace Sys2Proof.Machine

/-! ### `setRegs` -/

@[simp] theorem State.setRegs_regs (s : State) (r : Regs) : (s.setRegs r).regs = r := rfl
@[simp] theorem State.setRegs_ime (s : State) (r : Regs) : (s.setRegs r).ime = s.ime := rfl
@[simp] theorem State.setRegs_eiPending (s : State) (r : Regs) : (s.setRegs r).eiPending = s.eiPending := rfl
@[simp] theorem State.setRegs_halted (s : State) (r : Regs) : (s.setRegs r).halted = s.halted := rfl
@[simp] theorem State.setRegs_fault (s : State) (r : Regs) : (s.setRegs r).fault = s.fault := rfl
@[simp] theorem State.setRegs_requested (s : State) (r : Regs) : (s.setRegs r).requested = s.requested := rfl
@[simp] theorem State.setRegs_enabled (s : State) (r : Regs) : (s.setRegs r).enabled = s.enabled := rfl
@[simp] theorem State.setRegs_timer (s : State) (r : Regs) : (s.setRegs r).timer = s.timer := rfl
@[simp] theorem State.setRegs_timerDebt (s : State) (r : Regs) : (s.setRegs r).timerDebt = s.timerDebt := rfl
@[simp] theorem State.setRegs_bootEnabled (s : State) (r : Regs) : (s.setRegs r).bootEnabled = s.bootEnabled := rfl
@[simp] theorem State.setRegs_wramBank (s : State) (r : Regs) : (s.setRegs r).wramBank = s.wramBank := rfl
@[simp] theorem State.setRegs_key1Prepare (s : State) (r : Regs) : (s.setRegs r).key1Prepare = s.key1Prepare := rfl
@[simp] theorem State.setRegs_key1Speed (s : State) (r : Regs) : (s.setRegs r).key1Speed = s.key1Speed := rfl
@[simp] theorem State.setRegs_mbc (s : State) (r : Regs) : (s.setRegs r).mbc = s.mbc := rfl
@[simp] theorem State.setRegs_rom (s : State) (r : Regs) : (s.setRegs r).rom = s.rom := rfl
@[simp] theorem State.setRegs_boot (s : State) (r : Regs) : (s.setRegs r).boot = s.boot := rfl
@[simp] theorem State.setRegs_eram (s : State) (r : Regs) : (s.setRegs r).eram = s.eram := rfl
@[simp] theorem State.setRegs_wram (s : State) (r : Regs) : (s.setRegs r).wram = s.wram := rfl
@[simp] theorem State.setRegs_hram (s : State) (r : Regs) : (s.setRegs r).hram = s.hram := rfl
@[simp] theorem State.setRegs_cycles (s : State) (r : Regs) : (s.setRegs r).cycles = s.cycles := rfl
@[simp] theorem State.setRegs_totalI (s : State) (r : Regs) : (s.setRegs r).totalI = s.totalI := rfl
@[simp] theorem State.setRegs_cgb (s : State) (r : Regs) : (s.setRegs r).cgb = s.cgb := rfl
@[simp] theorem State.setRegs_title (s : State) (r : Regs) : (s.setRegs r).title = s.title := rfl
@[simp] theorem State.setRegs_cheats (s : State) (r : Regs) : (s.setRegs r).cheats = s.cheats := rfl
@[simp] theorem State.setRegs_breakpoints (s : State) (r : Regs) : (s.setRegs r).breakpoints = s.breakpoints := rfl
@[simp] theorem State.setRegs_draws (s : State) (r : Regs) : (s.setRegs r).draws = s.draws := rfl
@[simp] theorem State.setRegs_arrivals (s : State) (r : Regs) : (s.setRegs r).arrivals = s.arrivals := rfl
@[simp] theorem State.setRegs_stopped (s : State) (r : Regs) : (s.setRegs r).stopped = s.stopped := rfl

/-! ### `spend` -/

@[simp] theorem State.spend_regs (s : State) (n : Nat) : (s.spend n).regs = s.regs := rfl
@[simp] theorem State.spend_ime (s : State) (n : Nat) : (s.spend n).ime = s.ime := rfl
@[simp] theorem State.spend_eiPending (s : State) (n : Nat) : (s.spend n).eiPending = s.eiPending := rfl
@[simp] theorem State.spend_halted (s : State) (n : Nat) : (s.spend n).halted = s.halted := rfl
@[simp] theorem State.spend_fault (s : State) (n : Nat) : (s.spend n).fault = s.fault := rfl
@[simp] theorem State.spend_requested (s : State) (n : Nat) : (s.spend n).requested = s.requested := rfl
@[simp] theorem State.spend_enabled (s : State) (n : Nat) : (s.spend n).enabled = s.enabled := rfl
@[simp] theorem State.spend_timer (s : State) (n : Nat) : (s.spend n).timer = s.timer := rfl
@[simp] theorem State.spend_timerDebt (s : State) (n : Nat) : (s.spend n).timerDebt = s.timerDebt + n := rfl
@[simp] theorem State.spend_bootEnabled (s : State) (n : Nat) : (s.spend n).bootEnabled = s.bootEnabled := rfl
@[simp] theorem State.spend_wramBank (s : State) (n : Nat) : (s.spend n).wramBank = s.wramBank := rfl
@[simp] theorem State.spend_key1Prepare (s : State) (n : Nat) : (s.spend n).key1Prepare = s.key1Prepare := rfl
@[simp] theorem State.spend_key1Speed (s : State) (n : Nat) : (s.spend n).key1Speed = s.key1Speed := rfl
@[simp] theorem State.spend_mbc (s : State) (n : Nat) : (s.spend n).mbc = s.mbc := rfl
@[simp] theorem State.spend_rom (s : State) (n : Nat) : (s.spend n).rom = s.rom := rfl
@[simp] theorem State.spend_boot (s : State) (n : Nat) : (s.spend n).boot = s.boot := rfl
@[simp] theorem State.spend_eram (s : State) (n : Nat) : (s.spend n).eram = s.eram := rfl
@[simp] theorem State.spend_wram (s : State) (n : Nat) : (s.spend n).wram = s.wram := rfl
@[simp] theorem State.spend_hram (s : State) (n : Nat) : (s.spend n).hram = s.hram := rfl
@[simp] theorem State.spend_cycles (s : State) (n : Nat) : (s.spend n).cycles = s.cycles + n := rfl
@[simp] theorem State.spend_totalI (s : State) (n : Nat) : (s.spend n).totalI = s.totalI := rfl
@[simp] theorem State.spend_cgb (s : State) (n : Nat) : (s.spend n).cgb = s.cgb := rfl
@[simp] theorem State.spend_title (s : State) (n : Nat) : (s.spend n).title = s.title := rfl
@[simp] theorem State.spend_cheats (s : State) (n : Nat) : (s.spend n).cheats = s.cheats := rfl
@[simp] theorem State.spend_breakpoints (s : State) (n : Nat) : (s.spend n).breakpoints = s.breakpoints := rfl
@[simp] theorem State.spend_draws (s : State) (n : Nat) : (s.spend n).draws = s.draws := rfl
@[simp] theorem State.spend_arrivals (s : State) (n : Nat) : (s.spend n).arrivals = s.arrivals := rfl
@[simp] theorem State.spend_stopped (s : State) (n : Nat) : (s.spend n).stopped = s.stopped := rfl

/-! ### `drew` -/

@[simp] theorem State.drew_regs (s : State) (n : Nat) : (s.drew n).regs = s.regs := rfl
@[simp] theorem State.drew_ime (s : State) (n : Nat) : (s.drew n).ime = s.ime := rfl
@[simp] theorem State.drew_eiPending (s : State) (n : Nat) : (s.drew n).eiPending = s.eiPending := rfl
@[simp] theorem State.drew_halted (s : State) (n : Nat) : (s.drew n).halted = s.halted := rfl
@[simp] theorem State.drew_fault (s : State) (n : Nat) : (s.drew n).fault = s.fault := rfl
@[simp] theorem State.drew_requested (s : State) (n : Nat) : (s.drew n).requested = s.requested := rfl
@[simp] theorem State.drew_enabled (s : State) (n : Nat) : (s.drew n).enabled = s.enabled := rfl
@[simp] theorem State.drew_timer (s : State) (n : Nat) : (s.drew n).timer = s.timer := rfl
@[simp] theorem State.drew_timerDebt (s : State) (n : Nat) : (s.drew n).timerDebt = s.timerDebt := rfl
@[simp] theorem State.drew_bootEnabled (s : State) (n : Nat) : (s.drew n).bootEnabled = s.bootEnabled := rfl
@[simp] theorem State.drew_wramBank (s : State) (n : Nat) : (s.drew n).wramBank = s.wramBank := rfl
@[simp] theorem State.drew_key1Prepare (s : State) (n : Nat) : (s.drew n).key1Prepare = s.key1Prepare := rfl
@[simp] theorem State.drew_key1Speed (s : State) (n : Nat) : (s.drew n).key1Speed = s.key1Speed := rfl
@[simp] theorem State.drew_mbc (s : State) (n : Nat) : (s.drew n).mbc = s.mbc := rfl
@[simp] theorem State.drew_rom (s : State) (n : Nat) : (s.drew n).rom = s.rom := rfl
@[simp] theorem State.drew_boot (s : State) (n : Nat) : (s.drew n).boot = s.boot := rfl
@[simp] theorem State.drew_eram (s : State) (n : Nat) : (s.drew n).eram = s.eram := rfl
@[simp] theorem State.drew_wram (s : State) (n : Nat) : (s.drew n).wram = s.wram := rfl
@[simp] theorem State.drew_hram (s : State) (n : Nat) : (s.drew n).hram = s.hram := rfl
@[simp] theorem State.drew_cycles (s : State) (n : Nat) : (s.drew n).cycles = s.cycles := rfl
@[simp] theorem State.drew_totalI (s : State) (n : Nat) : (s.drew n).totalI = s.totalI := rfl
@[simp] theorem State.drew_cgb (s : State) (n : Nat) : (s.drew n).cgb = s.cgb := rfl
@[simp] theorem State.drew_title (s : State) (n : Nat) : (s.drew n).title = s.title := rfl
@[simp] theorem State.drew_cheats (s : State) (n : Nat) : (s.drew n).cheats = s.cheats := rfl
@[simp] theorem State.drew_breakpoints (s : State) (n : Nat) : (s.drew n).breakpoints = s.breakpoints := rfl
@[simp] theorem State.drew_draws (s : State) (n : Nat) : (s.drew n).draws = s.draws + n := rfl
@[simp] theorem State.drew_arrivals (s : State) (n : Nat) : (s.drew n).arrivals = s.arrivals := rfl
@[simp] theorem State.drew_stopped (s : State) (n : Nat) : (s.drew n).stopped = s.stopped := rfl

/-! ### `raise` -/

@[simp] theorem State.raise_regs (s : State) (f : CoreFault) : (s.raise f).regs = s.regs := rfl
@[simp] theorem State.raise_ime (s : State) (f : CoreFault) : (s.raise f).ime = s.ime := rfl
@[simp] theorem State.raise_eiPending (s : State) (f : CoreFault) : (s.raise f).eiPending = s.eiPending := rfl
@[simp] theorem State.raise_halted (s : State) (f : CoreFault) : (s.raise f).halted = s.halted := rfl
@[simp] theorem State.raise_fault (s : State) (f : CoreFault) : (s.raise f).fault = some f := rfl
@[simp] theorem State.raise_requested (s : State) (f : CoreFault) : (s.raise f).requested = s.requested := rfl
@[simp] theorem State.raise_enabled (s : State) (f : CoreFault) : (s.raise f).enabled = s.enabled := rfl
@[simp] theorem State.raise_timer (s : State) (f : CoreFault) : (s.raise f).timer = s.timer := rfl
@[simp] theorem State.raise_timerDebt (s : State) (f : CoreFault) : (s.raise f).timerDebt = s.timerDebt := rfl
@[simp] theorem State.raise_bootEnabled (s : State) (f : CoreFault) : (s.raise f).bootEnabled = s.bootEnabled := rfl
@[simp] theorem State.raise_wramBank (s : State) (f : CoreFault) : (s.raise f).wramBank = s.wramBank := rfl
@[simp] theorem State.raise_key1Prepare (s : State) (f : CoreFault) : (s.raise f).key1Prepare = s.key1Prepare := rfl
@[simp] theorem State.raise_key1Speed (s : State) (f : CoreFault) : (s.raise f).key1Speed = s.key1Speed := rfl
@[simp] theorem State.raise_mbc (s : State) (f : CoreFault) : (s.raise f).mbc = s.mbc := rfl
@[simp] theorem State.raise_rom (s : State) (f : CoreFault) : (s.raise f).rom = s.rom := rfl
@[simp] theorem State.raise_boot (s : State) (f : CoreFault) : (s.raise f).boot = s.boot := rfl
@[simp] theorem State.raise_eram (s : State) (f : CoreFault) : (s.raise f).eram = s.eram := rfl
@[simp] theorem State.raise_wram (s : State) (f : CoreFault) : (s.raise f).wram = s.wram := rfl
@[simp] theorem State.raise_hram (s : State) (f : CoreFault) : (s.raise f).hram = s.hram := rfl
@[simp] theorem State.raise_cycles (s : State) (f : CoreFault) : (s.raise f).cycles = s.cycles := rfl
@[simp] theorem State.raise_totalI (s : State) (f : CoreFault) : (s.raise f).totalI = s.totalI := rfl
@[simp] theorem State.raise_cgb (s : State) (f : CoreFault) : (s.raise f).cgb = s.cgb := rfl
@[simp] theorem State.raise_title (s : State) (f : CoreFault) : (s.raise f).title = s.title := rfl
@[simp] theorem State.raise_cheats (s : State) (f : CoreFault) : (s.raise f).cheats = s.cheats := rfl
@[simp] theorem State.raise_breakpoints (s : State) (f : CoreFault) : (s.raise f).breakpoints = s.breakpoints := rfl
@[simp] theorem State.raise_draws (s : State) (f : CoreFault) : (s.raise f).draws = s.draws := rfl
@[simp] theorem State.raise_arrivals (s : State) (f : CoreFault) : (s.raise f).arrivals = s.arrivals := rfl
@[simp] theorem State.raise_stopped (s : State) (f : CoreFault) : (s.raise f).stopped = s.stopped := rfl

/-! ### `attempt` -/

@[simp] theorem State.attempt_regs (s : State) (i : Source) : (s.attempt i).regs = s.regs := rfl
@[simp] theorem State.attempt_ime (s : State) (i : Source) : (s.attempt i).ime = s.ime := rfl
@[simp] theorem State.attempt_eiPending (s : State) (i : Source) : (s.attempt i).eiPending = s.eiPending := rfl
@[simp] theorem State.attempt_halted (s : State) (i : Source) : (s.attempt i).halted = s.halted := rfl
@[simp] theorem State.attempt_fault (s : State) (i : Source) : (s.attempt i).fault = s.fault := rfl
@[simp] theorem State.attempt_requested (s : State) (i : Source) : (s.attempt i).requested = i.attemptOn s.enabled s.requested := rfl
@[simp] theorem State.attempt_enabled (s : State) (i : Source) : (s.attempt i).enabled = s.enabled := rfl
@[simp] theorem State.attempt_timer (s : State) (i : Source) : (s.attempt i).timer = s.timer := rfl
@[simp] theorem State.attempt_timerDebt (s : State) (i : Source) : (s.attempt i).timerDebt = s.timerDebt := rfl
@[simp] theorem State.attempt_bootEnabled (s : State) (i : Source) : (s.attempt i).bootEnabled = s.bootEnabled := rfl
@[simp] theorem State.attempt_wramBank (s : State) (i : Source) : (s.attempt i).wramBank = s.wramBank := rfl
@[simp] theorem State.attempt_key1Prepare (s : State) (i : Source) : (s.attempt i).key1Prepare = s.key1Prepare := rfl
@[simp] theorem State.attempt_key1Speed (s : State) (i : Source) : (s.attempt i).key1Speed = s.key1Speed := rfl
@[simp] theorem State.attempt_mbc (s : State) (i : Source) : (s.attempt i).mbc = s.mbc := rfl
@[simp] theorem State.attempt_rom (s : State) (i : Source) : (s.attempt i).rom = s.rom := rfl
@[simp] theorem State.attempt_boot (s : State) (i : Source) : (s.attempt i).boot = s.boot := rfl
@[simp] theorem State.attempt_eram (s : State) (i : Source) : (s.attempt i).eram = s.eram := rfl
@[simp] theorem State.attempt_wram (s : State) (i : Source) : (s.attempt i).wram = s.wram := rfl
@[simp] theorem State.attempt_hram (s : State) (i : Source) : (s.attempt i).hram = s.hram := rfl
@[simp] theorem State.attempt_cycles (s : State) (i : Source) : (s.attempt i).cycles = s.cycles := rfl
@[simp] theorem State.attempt_totalI (s : State) (i : Source) : (s.attempt i).totalI = s.totalI := rfl
@[simp] theorem State.attempt_cgb (s : State) (i : Source) : (s.attempt i).cgb = s.cgb := rfl
@[simp] theorem State.attempt_title (s : State) (i : Source) : (s.attempt i).title = s.title := rfl
@[simp] theorem State.attempt_cheats (s : State) (i : Source) : (s.attempt i).cheats = s.cheats := rfl
@[simp] theorem State.attempt_breakpoints (s : State) (i : Source) : (s.attempt i).breakpoints = s.breakpoints := rfl
@[simp] theorem State.attempt_draws (s : State) (i : Source) : (s.attempt i).draws = s.draws := rfl
@[simp] theorem State.attempt_arrivals (s : State) (i : Source) : (s.attempt i).arrivals = s.arrivals := rfl
@[simp] theorem State.attempt_stopped (s : State) (i : Source) : (s.attempt i).stopped = s.stopped := rfl

/-! ### The register updates are `setRegs` -/

@[simp] theorem State.setReg_eq (s : State) (x : Reg8) (v : Byte) : s.setReg x v = s.setRegs (s.regs.set x v) := rfl
@[simp] theorem State.setReg16_eq (s : State) (x : Reg16) (v : Word) :
    s.setReg16 x v = s.setRegs (s.regs.set16 x v) := rfl
@[simp] theorem State.setFlags_eq (s : State) (f : Flags) : s.setFlags f = s.setRegs { s.regs with f := f } := rfl
@[simp] theorem State.setSp_eq (s : State) (v : Word) : s.setSp v = s.setRegs { s.regs with sp := v } := rfl
@[simp] theorem State.setPc_eq (s : State) (v : Word) : s.setPc v = s.setRegs { s.regs with pc := v } := rfl
@[simp] theorem State.advance_eq (s : State) (len : Word) :
    s.advance len = s.setRegs { s.regs with pc := s.regs.pc + len } := rfl

/-! ### The normal form -/

@[simp] theorem State.setRegs_setRegs (s : State) (r q : Regs) : (s.setRegs r).setRegs q = s.setRegs q := rfl
@[simp] theorem State.setRegs_self (s : State) : s.setRegs s.regs = s := rfl
@[simp] theorem State.spend_setRegs (s : State) (n : Nat) (r : Regs) :
    (s.spend n).setRegs r = (s.setRegs r).spend n := rfl
@[simp] theorem State.drew_setRegs (s : State) (n : Nat) (r : Regs) :
    (s.drew n).setRegs r = (s.setRegs r).drew n := rfl
@[simp] theorem State.spend_drew (s : State) (n k : Nat) : (s.spend n).drew k = (s.drew k).spend n := rfl
@[simp] theorem State.spend_spend (s : State) (n k : Nat) : (s.spend n).spend k = s.spend (n + k) := by
  simp [State.spend, Nat.add_assoc]
@[simp] theorem State.drew_drew (s : State) (n k : Nat) : (s.drew n).drew k = s.drew (n + k) := by
  simp [State.drew, Nat.add_assoc]
@[simp] theorem State.drew_zero (s : State) : s.drew 0 = s := rfl
@[simp] theorem State.spend_zero (s : State) : s.spend 0 = s := rfl

/-! ### The register file -/

@[simp] theorem Regs.get_set_same (r : Regs) (x : Reg8) (v : Byte) : (r.set x v).get x = v := by cases x <;> rfl
theorem Regs.get_set_other (r : Regs) {x y : Reg8} (v : Byte) (h : y ≠ x) : (r.set x v).get y = r.get y := by
  cases x <;> cases y <;> first | rfl | exact absurd rfl h
@[simp] theorem Regs.set_f (r : Regs) (x : Reg8) (v : Byte) : (r.set x v).f = r.f := by cases x <;> rfl
@[simp] theorem Regs.set_sp (r : Regs) (x : Reg8) (v : Byte) : (r.set x v).sp = r.sp := by cases x <;> rfl
@[simp] theorem Regs.set_pc (r : Regs) (x : Reg8) (v : Byte) : (r.set x v).pc = r.pc := by cases x <;> rfl
@[simp] theorem Regs.set16_f (r : Regs) (x : Reg16) (v : Word) : (r.set16 x v).f = r.f := by cases x <;> rfl
@[simp] theorem Regs.set16_pc (r : Regs) (x : Reg16) (v : Word) : (r.set16 x v).pc = r.pc := by cases x <;> rfl

/-! ### Bytes of a word -/

@[simp] theorem hiByte_append_loByte (v : Word) : hiByte v ++ loByte v = v := by
  apply BitVec.eq_of_getLsbD_eq
  intro i hi
  simp only [hiByte, loByte, BitVec.getLsbD_append, BitVec.getLsbD_extractLsb']
  by_cases h : i < 8
  · simp [h]
  · have h1 : i - 8 < 8 := by omega
    have h2 : 8 + (i - 8) = i := by omega
    simp [h, h1, h2]

@[simp] theorem loByte_append (a b : Byte) : loByte (a ++ b) = b := by
  apply BitVec.eq_of_getLsbD_eq
  intro i hi
  simp only [loByte, BitVec.getLsbD_append, BitVec.getLsbD_extractLsb']
  simp [hi]

@[simp] theorem hiByte_append (a b : Byte) : hiByte (a ++ b) = a := by
  apply BitVec.eq_of_getLsbD_eq
  intro i hi
  simp only [hiByte, BitVec.getLsbD_append, BitVec.getLsbD_extractLsb']
  simp [hi]

/-! ### Pairs (10_state.md R21, R24) -/

@[simp] theorem Regs.get16_set16_same (r : Regs) (x : Reg16) (v : Word) : (r.set16 x v).get16 x = v := by
  cases x <;> simp [Regs.set16, Regs.get16, Regs.setBc, Regs.setDe, Regs.setHl, Regs.bc, Regs.de, Regs.hl]

@[simp] theorem Flags.ofByte_toByte (f : Flags) : Flags.ofByte f.toByte = f := by
  rcases f with ⟨z, n, h, c⟩
  cases z <;> cases n <;> cases h <;> cases c <;> rfl


end Sys2Proof.Machine
end

