-- ==== Sys2Proof/Laws/Bus.lean ====
section
/-! SUPPORT. The bus: what a read answers and a write does, said once (20_memory.md R60 to R98). -/

namespace Sys2Proof.Machine

/-! ### The address map -/

/-- The addresses of an owner (20_memory.md R70, R83). -/
def Target.covers (n : Nat) : Target → Prop
  | .romFixed => n < 0x4000
  | .romWindow => 0x4000 ≤ n ∧ n < 0x8000
  | .vram => 0x8000 ≤ n ∧ n < 0xA000
  | .extRam => 0xA000 ≤ n ∧ n < 0xC000
  | .wramFixed => (0xC000 ≤ n ∧ n < 0xD000) ∨ (0xE000 ≤ n ∧ n < 0xF000)
  | .wramBanked => (0xD000 ≤ n ∧ n < 0xE000) ∨ (0xF000 ≤ n ∧ n < 0xFE00)
  | .oam => 0xFE00 ≤ n ∧ n < 0xFEA0
  | .hram => 0xFF80 ≤ n ∧ n < 0xFFFF
  | .interruptEnable => n = 0xFFFF
  | _ => 0xFEA0 ≤ n ∧ n < 0xFF80

/-- The owners in the HWIO window. -/
def Target.isHwio : Target → Bool
  | .romFixed | .romWindow | .vram | .extRam | .wramFixed | .wramBanked | .oam | .hram | .interruptEnable => false
  | _ => true

theorem Target.isHwio_ite (p : Prop) [Decidable p] {t t' : Target} (h : t.isHwio = true) (h' : t'.isHwio = true) :
    (if p then t else t').isHwio = true := by
  split <;> assumption

theorem routeHwio_isHwio (n : Nat) : (routeHwio n).isHwio = true := by
  unfold routeHwio
  repeat' apply Target.isHwio_ite
  all_goals rfl

theorem Target.covers_of_isHwio {t : Target} {n : Nat} (h : t.isHwio = true) (hn : 0xFEA0 ≤ n ∧ n < 0xFF80) :
    t.covers n := by
  cases t <;> first | exact hn | cases h

/-- The map sends an address to an owner that covers it. -/
theorem route_covers (a : Word) : (route a).covers a.toNat := by
  have h := a.isLt
  unfold route
  dsimp only
  generalize a.toNat = n at h
  by_cases h1 : n < 0x4000
  · rw [if_pos h1]; exact h1
  by_cases h2 : n < 0x8000
  · rw [if_neg h1, if_pos h2]; exact ⟨by omega, h2⟩
  by_cases h3 : n < 0xA000
  · rw [if_neg h1, if_neg h2, if_pos h3]; exact ⟨by omega, h3⟩
  by_cases h4 : n < 0xC000
  · rw [if_neg h1, if_neg h2, if_neg h3, if_pos h4]; exact ⟨by omega, h4⟩
  rw [if_neg h1, if_neg h2, if_neg h3, if_neg h4]
  by_cases h5 : n < 0xD000
  · rw [if_pos h5]; exact .inl ⟨by omega, h5⟩
  by_cases h6 : n < 0xE000
  · rw [if_neg h5, if_pos h6]; exact .inl ⟨by omega, h6⟩
  by_cases h7 : n < 0xF000
  · rw [if_neg h5, if_neg h6, if_pos h7]; exact .inr ⟨by omega, h7⟩
  by_cases h8 : n < 0xFE00
  · rw [if_neg h5, if_neg h6, if_neg h7, if_pos h8]; exact .inr ⟨by omega, h8⟩
  rw [if_neg h5, if_neg h6, if_neg h7, if_neg h8]
  by_cases h9 : n < 0xFEA0
  · rw [if_pos h9]; exact ⟨by omega, h9⟩
  by_cases h10 : n < 0xFF00
  · rw [if_neg h9, if_pos h10]; exact ⟨by omega, by omega⟩
  by_cases h11 : n < 0xFF80
  · rw [if_neg h9, if_neg h10, if_pos h11]
    exact Target.covers_of_isHwio (routeHwio_isHwio n) ⟨by omega, h11⟩
  by_cases h12 : n < 0xFFFF
  · rw [if_neg h9, if_neg h10, if_neg h11, if_pos h12]; exact ⟨by omega, h12⟩
  · rw [if_neg h9, if_neg h10, if_neg h11, if_neg h12]
    show n = 0xFFFF
    omega

/-! ### What the bus does not look at -/

@[simp] theorem State.answer_setRegs (s : State) (r : Regs) (a : Word) : (s.setRegs r).answer a = s.answer a := rfl
@[simp] theorem State.answer_spend (s : State) (n : Nat) (a : Word) : (s.spend n).answer a = s.answer a := rfl
@[simp] theorem State.answer_drew (s : State) (n : Nat) (a : Word) : (s.drew n).answer a = s.answer a := rfl
@[simp] theorem State.answer_raise (s : State) (f : CoreFault) (a : Word) : (s.raise f).answer a = s.answer a := rfl
@[simp] theorem State.peek_setRegs (s : State) (r : Regs) (a : Word) : (s.setRegs r).peek a = s.peek a := rfl
@[simp] theorem State.peek_spend (s : State) (n : Nat) (a : Word) : (s.spend n).peek a = s.peek a := rfl
@[simp] theorem State.readCell_setRegs (s : State) (r : Regs) (c : Cell) :
    (s.setRegs r).readCell c = s.readCell c := rfl
@[simp] theorem State.readCell_spend (s : State) (n : Nat) (c : Cell) : (s.spend n).readCell c = s.readCell c := rfl
@[simp] theorem State.readCell_drew (s : State) (n : Nat) (c : Cell) : (s.drew n).readCell c = s.readCell c := rfl
@[simp] theorem State.readCell_raise (s : State) (f : CoreFault) (c : Cell) :
    (s.raise f).readCell c = s.readCell c := rfl
@[simp] theorem State.storedCell_setRegs (s : State) (r : Regs) (a : Word) :
    (s.setRegs r).storedCell a = s.storedCell a := rfl
@[simp] theorem State.storedCell_spend (s : State) (n : Nat) (a : Word) :
    (s.spend n).storedCell a = s.storedCell a := rfl
@[simp] theorem State.storedCell_drew (s : State) (n : Nat) (a : Word) :
    (s.drew n).storedCell a = s.storedCell a := rfl
@[simp] theorem State.shownCell_setRegs (s : State) (r : Regs) (a : Word) :
    (s.setRegs r).shownCell a = s.shownCell a := rfl
@[simp] theorem State.shownCell_spend (s : State) (n : Nat) (a : Word) :
    (s.spend n).shownCell a = s.shownCell a := rfl
@[simp] theorem State.shownCell_drew (s : State) (n : Nat) (a : Word) :
    (s.drew n).shownCell a = s.shownCell a := rfl

/-- A read that no oracle answers. -/
theorem State.peek_of_answer {s : State} {a : Word} {v : Byte} (h : s.answer a = .byte v) : s.peek a = v := by
  simp [State.peek, h, Answer.value]

/-- A read that no oracle answers costs 4 cycles and changes nothing else. -/
theorem State.afterRead_of_answer {s : State} {a : Word} {v : Byte} (h : s.answer a = .byte v) :
    s.afterRead a = s.spend 4 := by
  simp [State.afterRead, h, Answer.drawn]

/-! ### What a write does not look at -/

@[simp] theorem State.busWrite_setRegs (s : State) (r : Regs) (a : Word) (v : Byte) :
    (s.setRegs r).busWrite a v = (s.busWrite a v).map fun u => u.setRegs r := by
  unfold State.busWrite
  cases route a <;> try rfl
  case romFixed => simp only [Option.map_map]; rfl
  case romWindow => simp only [Option.map_map]; rfl
  case extRam =>
    show (match s.mbc.extTarget a.toNat with | .ram off => _ | .fixed _ => _ | .clock _ => _) = _
    cases s.mbc.extTarget a.toNat <;> rfl
  case key1 =>
    cases h : s.cgb <;> simp only [State.setRegs_cgb, h, Bool.false_eq_true, ↓reduceIte] <;> rfl
  case bootLatch => cases v.getLsbD 0 <;> rfl
  case svbk =>
    cases h : s.cgb <;> simp only [State.setRegs_cgb, h, Bool.false_eq_true, ↓reduceIte] <;> rfl

@[simp] theorem State.busWrite_spend (s : State) (n : Nat) (a : Word) (v : Byte) :
    (s.spend n).busWrite a v = (s.busWrite a v).map fun u => u.spend n := by
  unfold State.busWrite
  cases route a <;> try rfl
  case romFixed => simp only [Option.map_map]; rfl
  case romWindow => simp only [Option.map_map]; rfl
  case extRam =>
    show (match s.mbc.extTarget a.toNat with | .ram off => _ | .fixed _ => _ | .clock _ => _) = _
    cases s.mbc.extTarget a.toNat <;> rfl
  case key1 =>
    cases h : s.cgb <;> simp only [State.spend_cgb, h, Bool.false_eq_true, ↓reduceIte] <;> rfl
  case bootLatch => cases v.getLsbD 0 <;> rfl
  case svbk =>
    cases h : s.cgb <;> simp only [State.spend_cgb, h, Bool.false_eq_true, ↓reduceIte] <;> rfl

@[simp] theorem State.busWrite_drew (s : State) (n : Nat) (a : Word) (v : Byte) :
    (s.drew n).busWrite a v = (s.busWrite a v).map fun u => u.drew n := by
  unfold State.busWrite
  cases route a <;> try rfl
  case romFixed => simp only [Option.map_map]; rfl
  case romWindow => simp only [Option.map_map]; rfl
  case extRam =>
    show (match s.mbc.extTarget a.toNat with | .ram off => _ | .fixed _ => _ | .clock _ => _) = _
    cases s.mbc.extTarget a.toNat <;> rfl
  case key1 =>
    cases h : s.cgb <;> simp only [State.drew_cgb, h, Bool.false_eq_true, ↓reduceIte] <;> rfl
  case bootLatch => cases v.getLsbD 0 <;> rfl
  case svbk =>
    cases h : s.cgb <;> simp only [State.drew_cgb, h, Bool.false_eq_true, ↓reduceIte] <;> rfl

/-! ### Everything a write can do -/

/-- The controller's registers are all that a command changes, and its kind and bank count stay. -/
theorem Mbc.write_keeps {m m' : Mbc} {addr : Nat} {v : Byte} (h : m.write addr v = some m') :
    m'.kind = m.kind ∧ m'.romBanks = m.romBanks ∧ m'.dirty = m.dirty := by
  unfold Mbc.write Mbc.write1 Mbc.write3 Mbc.write5 Mbc.selectRom at h
  repeat' split at h
  all_goals (cases h <;> exact ⟨rfl, rfl, rfl⟩)

/-- A write changes the controller, one cell, the Timer's registers, the two interrupt sets or the bus registers, and
nothing else. -/
theorem State.busWrite_cases {s u : State} {a : Word} {v : Byte} (h : s.busWrite a v = some u) :
    u = s
    ∨ (∃ m, a.toNat < 0x8000 ∧ s.mbc.write a.toNat v = some m ∧ u = { s with mbc := m })
    ∨ (∃ off, s.storedCell a = some (.eram off) ∧ u = s.writeEram off v)
    ∨ (∃ c, s.storedCell a = some c ∧ (∀ off, c ≠ .eram off) ∧ u = s.writeCell c v)
    ∨ (∃ t, (t = s.timer.clearDiv ∨ t = s.timer.writeTima v ∨ t = s.timer.writeTma v ∨ t = s.timer.writeTac v)
        ∧ u = { s with timer := t })
    ∨ u = { s with requested := byteToSet v }
    ∨ u = { s with enabled := byteToSet v }
    ∨ u = { s with key1Prepare := v.getLsbD 0 }
    ∨ u = { s with bootEnabled := false }
    ∨ u = { s with wramBank := svbkOf v } := by
  unfold State.busWrite at h
  unfold State.storedCell
  have low : route a = .romFixed ∨ route a = .romWindow → a.toNat < 0x8000 := by
    have hc := route_covers a
    rintro (hr | hr) <;> rw [hr] at hc <;> simp only [Target.covers] at hc <;> omega
  cases hr : route a <;> simp only [hr] at h ⊢
  case romFixed =>
    obtain ⟨m, hm, rfl⟩ := Option.map_eq_some_iff.mp h
    exact .inr (.inl ⟨m, low (.inl hr), hm, rfl⟩)
  case romWindow =>
    obtain ⟨m, hm, rfl⟩ := Option.map_eq_some_iff.mp h
    exact .inr (.inl ⟨m, low (.inr hr), hm, rfl⟩)
  case extRam =>
    cases he : s.mbc.extTarget a.toNat <;> simp only [he] at h ⊢ <;> obtain rfl := Option.some.inj h
    · exact .inl rfl
    · exact .inr (.inr (.inl ⟨_, rfl, rfl⟩))
    · exact .inl rfl
  case wramFixed =>
    obtain rfl := Option.some.inj h
    exact .inr (.inr (.inr (.inl ⟨_, rfl, by simp [wramFixedCell], rfl⟩)))
  case wramBanked =>
    obtain rfl := Option.some.inj h
    exact .inr (.inr (.inr (.inl ⟨_, rfl, by simp [State.wramBankedCell], rfl⟩)))
  case hram =>
    obtain rfl := Option.some.inj h
    exact .inr (.inr (.inr (.inl ⟨_, rfl, by simp [hramCell], rfl⟩)))
  case div => obtain rfl := Option.some.inj h; simp
  case tima => obtain rfl := Option.some.inj h; simp
  case tma => obtain rfl := Option.some.inj h; simp
  case tac => obtain rfl := Option.some.inj h; simp
  case interruptFlag => obtain rfl := Option.some.inj h; simp
  case interruptEnable => obtain rfl := Option.some.inj h; simp
  case key1 => split at h <;> obtain rfl := Option.some.inj h <;> simp
  case bootLatch => split at h <;> obtain rfl := Option.some.inj h <;> simp
  case svbk => split at h <;> obtain rfl := Option.some.inj h <;> simp
  all_goals exact .inl (Option.some.inj h).symm

/-- What no write changes. -/
theorem State.busWrite_keeps {s u : State} {a : Word} {v : Byte} (h : s.busWrite a v = some u) :
    u.regs = s.regs ∧ u.ime = s.ime ∧ u.eiPending = s.eiPending ∧ u.halted = s.halted ∧ u.fault = s.fault
    ∧ u.timerDebt = s.timerDebt ∧ u.cycles = s.cycles ∧ u.totalI = s.totalI ∧ u.rom = s.rom ∧ u.boot = s.boot
    ∧ u.cgb = s.cgb ∧ u.title = s.title ∧ u.cheats = s.cheats ∧ u.breakpoints = s.breakpoints ∧ u.draws = s.draws
    ∧ u.arrivals = s.arrivals ∧ u.stopped = s.stopped ∧ u.mbc.kind = s.mbc.kind
    ∧ u.mbc.romBanks = s.mbc.romBanks ∧ u.key1Speed = s.key1Speed := by
  rcases State.busWrite_cases h with rfl | ⟨m, _, hm, rfl⟩ | ⟨off, _, rfl⟩ | ⟨c, hc, hn, rfl⟩ | ⟨t, _, rfl⟩ | rfl | rfl |
    rfl | rfl | rfl <;> try (simp; done)
  · obtain ⟨hk, hb, _⟩ := Mbc.write_keeps hm
    simp [hk, hb]
  · simp [State.writeEram, State.writeCell]
  · unfold State.storedCell at hc
    cases hr : route a <;> simp only [hr] at hc
    case extRam =>
      cases he : s.mbc.extTarget a.toNat <;> simp only [he] at hc <;> cases hc
      exact absurd rfl (hn _)
    case wramFixed => cases hc; simp [State.writeCell, wramFixedCell]
    case wramBanked => cases hc; simp [State.writeCell, State.wramBankedCell]
    case hram => cases hc; simp [State.writeCell, hramCell]
    all_goals cases hc

/-! ### Cells -/

theorem Cell.inRange_eram {off : Nat} (h : off < Config.eramCapacity) : (Cell.eram off).inRange = true := by
  rw [Cell.inRange, decide_eq_true_eq]
  exact h

theorem Cell.inRange_wram {off : Nat} (h : off < Config.wramCapacity) : (Cell.wram off).inRange = true := by
  rw [Cell.inRange, decide_eq_true_eq]
  exact h

theorem Cell.inRange_hram {off : Nat} (h : off < Config.hramSize) : (Cell.hram off).inRange = true := by
  rw [Cell.inRange, decide_eq_true_eq]
  exact h

/-- External RAM is reached within its size (20_memory.md R109). -/
theorem Mbc.extTarget_ram {m : Mbc} {addr off : Nat} (h : m.extTarget addr = .ram off) :
    off < Config.eramCapacity := by
  have hoff : m.eramOffset addr < Config.eramCapacity := Nat.mod_lt _ (by decide)
  unfold Mbc.extTarget at h
  generalize m.eramOffset addr = o at h hoff
  repeat' split at h
  all_goals first
    | (injection h with e; exact e ▸ hoff)
    | (injection h)

/-- A cell that is stored to lies in its store, and is no byte of ROM or of the boot image. -/
theorem State.storedCell_inRange {s : State} {a : Word} {c : Cell} (h : s.storedCell a = some c) :
    c.inRange = true ∧ (∀ off, c ≠ .rom off) ∧ ∀ off, c ≠ .boot off := by
  have hh : route a = .hram → a.toNat - 0xFF80 < 127 := by
    have hc := route_covers a
    intro hr
    rw [hr] at hc
    simp only [Target.covers] at hc
    omega
  have hb : s.wramBankShown < 8 := by
    unfold State.wramBankShown
    split
    · exact s.wramBank.isLt
    · omega
  unfold State.storedCell at h
  cases hr : route a <;> simp only [hr] at h
  case extRam =>
    cases he : s.mbc.extTarget a.toNat <;> simp only [he] at h
    · cases h
    · cases h
      exact ⟨Cell.inRange_eram (Mbc.extTarget_ram he), by simp, by simp⟩
    · cases h
  case wramFixed =>
    cases h
    have : a.toNat % Config.wramBankSize < Config.wramBankSize := Nat.mod_lt _ (by decide)
    refine ⟨?_, by simp [wramFixedCell], by simp [wramFixedCell]⟩
    refine Cell.inRange_wram ?_
    simp only [Config.wramBankSize, Config.wramCapacity] at *
    omega
  case wramBanked =>
    cases h
    have : a.toNat % Config.wramBankSize < Config.wramBankSize := Nat.mod_lt _ (by decide)
    refine ⟨?_, by simp [State.wramBankedCell], by simp [State.wramBankedCell]⟩
    refine Cell.inRange_wram ?_
    simp only [Config.wramBankSize, Config.wramCapacity] at *
    omega
  case hram =>
    cases h
    refine ⟨?_, by simp [hramCell], by simp [hramCell]⟩
    exact Cell.inRange_hram (hh hr)
  all_goals cases h

/-- An address that shows a cell and is not cheated reads as the cell. -/
theorem State.answer_of_shownCell {s : State} {a : Word} {c : Cell} (hk : s.cheats.get? a.toNat = none)
    (h : s.shownCell a = some c) : s.answer a = .byte (s.readCell c) := by
  simp only [State.answer, hk]
  unfold State.shownCell at h
  unfold State.mapAnswer
  cases hr : route a <;> simp only [hr] at h ⊢
  case romFixed =>
    split at h
    · rename_i hb
      simp only [hb, if_true]
      cases h
      rfl
    · rename_i hb
      cases h
      have hlt : a.toNat < Config.romCapacity := lt_of_lt_of_le a.isLt (by decide)
      simp only [hb]
      simp [State.romByte, hlt]
  case romWindow =>
    split at h
    · rename_i hlt
      cases h
      simp [State.romByte, hlt]
    · cases h
  case extRam =>
    simp only [State.storedCell, hr] at h
    cases he : s.mbc.extTarget a.toNat <;> simp only [he] at h ⊢ <;> cases h
    rfl
  case wramFixed => simp only [State.storedCell, hr] at h; cases h; rfl
  case wramBanked => simp only [State.storedCell, hr] at h; cases h; rfl
  case hram => simp only [State.storedCell, hr] at h; cases h; rfl
  all_goals
    simp only [State.storedCell, hr] at h
    cases h

/-! ### A stored byte -/

/-- A write at an address of a store other than external RAM is the write of the cell. -/
theorem State.busWrite_of_storedCell {s : State} {a : Word} {c : Cell} (v : Byte) (h : s.storedCell a = some c)
    (hn : ∀ off, c ≠ .eram off) : s.busWrite a v = some (s.writeCell c v) := by
  unfold State.storedCell at h
  unfold State.busWrite
  cases hr : route a <;> simp only [hr] at h ⊢
  case extRam =>
    cases he : s.mbc.extTarget a.toNat <;> simp only [he] at h <;> cases h
    exact absurd rfl (hn _)
  all_goals cases h
  all_goals rfl

/-- A write at an address of external RAM is the write of the cell, and counts as dirty (20_memory.md R115, R128). -/
theorem State.busWrite_of_storedEram {s : State} {a : Word} {off : Nat} (v : Byte)
    (h : s.storedCell a = some (.eram off)) : s.busWrite a v = some (s.writeEram off v) := by
  unfold State.storedCell at h
  unfold State.busWrite
  cases hr : route a <;> simp only [hr] at h ⊢
  case extRam =>
    cases he : s.mbc.extTarget a.toNat <;> simp only [he] at h ⊢ <;> cases h
    rfl
  case wramFixed => simp [wramFixedCell] at h
  case wramBanked => simp [State.wramBankedCell] at h
  case hram => simp [hramCell] at h
  all_goals cases h

/-- A cell's write shows at the addresses of the cell alone. -/
theorem State.answer_writeCell_other {s : State} {c : Cell} {b : Word} (v : Byte) (h : s.shownCell b ≠ some c) :
    (s.writeCell c v).answer b = s.answer b := by
  have hp : (s.writeCell c v).mbc = s.mbc ∧ (s.writeCell c v).bootEnabled = s.bootEnabled
      ∧ (s.writeCell c v).boot.isSome = s.boot.isSome ∧ (s.writeCell c v).wramBank = s.wramBank
      ∧ (s.writeCell c v).cgb = s.cgb ∧ (s.writeCell c v).timer = s.timer
      ∧ (s.writeCell c v).requested = s.requested ∧ (s.writeCell c v).enabled = s.enabled
      ∧ (s.writeCell c v).key1Speed = s.key1Speed ∧ (s.writeCell c v).key1Prepare = s.key1Prepare
      ∧ (s.writeCell c v).cheats = s.cheats := by
    cases c <;> simp [State.writeCell]
  obtain ⟨h1, h2, h3, h4, h5, h6, h7, h8, h9, h10, h11⟩ := hp
  unfold State.answer
  rw [h11]
  cases s.cheats.get? b.toNat with
  | some w => rfl
  | none =>
    have hbs : (s.writeCell c v).bootShown b = s.bootShown b := by simp only [State.bootShown, h2, h3]
    unfold State.mapAnswer
    unfold State.shownCell at h
    simp only [State.romByte, State.wramBankedCell, State.wramBankShown, h1, h4, h5, h6, h7, h8, h9, h10]
    cases hr : route b <;> simp only [hr, State.storedCell] at h ⊢
    case romFixed =>
      rw [hbs]
      have hlt : b.toNat < Config.romCapacity := lt_of_lt_of_le b.isLt (by decide)
      by_cases hb : s.bootShown b = true
      · rw [if_pos hb] at h
        rw [if_pos hb, if_pos hb, State.readCell_writeCell_other]
        exact fun e => h (by rw [e])
      · rw [if_neg hb] at h
        rw [if_neg hb, if_neg hb, if_pos hlt, if_pos hlt, State.readCell_writeCell_other]
        exact fun e => h (by rw [e])
    case romWindow =>
      by_cases hb : s.mbc.windowBank * Config.romBankSize + (b.toNat - 0x4000) < Config.romCapacity
      · rw [if_pos hb] at h
        rw [if_pos hb, if_pos hb, State.readCell_writeCell_other]
        exact fun e => h (by rw [e])
      · rw [if_neg hb, if_neg hb]
    case extRam =>
      cases he : s.mbc.extTarget b.toNat <;> simp only [he] at h ⊢
      rw [State.readCell_writeCell_other]
      exact fun e => h (by rw [e])
    case wramFixed =>
      rw [State.readCell_writeCell_other]
      exact fun e => h (by rw [e])
    case wramBanked =>
      rw [State.readCell_writeCell_other]
      exact fun e => h (by rw [State.wramBankedCell, State.wramBankShown, e])
    case hram =>
      rw [State.readCell_writeCell_other]
      exact fun e => h (by rw [e])

end Sys2Proof.Machine
end

