-- ==== Sys2Proof/Laws/Ops.lean ====
section
/-! SUPPORT. What each shared operation of Machine/Ops.lean answers, said once. -/

namespace Sys2Proof.Machine

/-! ### Reads -/

@[simp] theorem State.memRead_fst (s : State) (a : Word) : (s.memRead a).1 = s.peek a := rfl

@[simp] theorem State.memRead_snd (s : State) (a : Word) :
    (s.memRead a).2 = (s.drew (s.answer a).drawn).spend 4 := rfl

@[simp] theorem State.peek_drew (s : State) (n : Nat) (a : Word) :
    (s.drew n).peek a = (s.answer a).value (s.draws + n) := rfl

/-! ### Courses of actions -/

@[simp] theorem Flow.andThen_ok (s : State) (k : State → Flow) : (Flow.ok s).andThen k = k s := rfl
@[simp] theorem Flow.andThen_raised (s : State) (k : State → Flow) : (Flow.raised s).andThen k = .raised s := rfl
@[simp] theorem Flow.thenDo_ok (s : State) (k : State → State) : (Flow.ok s).thenDo k = .ok (k s) := rfl
@[simp] theorem Flow.thenDo_raised (s : State) (k : State → State) : (Flow.raised s).thenDo k = .raised s := rfl
@[simp] theorem Flow.outcome_ok (s : State) : (Flow.ok s).outcome = .next s := rfl
@[simp] theorem Flow.outcome_raised (s : State) : (Flow.raised s).outcome = .next s := rfl

/-- A course of actions always ends in a state. -/
theorem Flow.outcome_next (f : Flow) : f.outcome = .next f.state := rfl

/-! ### Writes -/

theorem State.memWrite_of_some {s u : State} {site : FaultSite} {a : Word} {v : Byte}
    (h : s.busWrite a v = some u) : s.memWrite site a v = .ok (u.spend 4) := by
  simp [State.memWrite, h]

theorem State.memWrite_of_none {s : State} {site : FaultSite} {a : Word} {v : Byte} (h : s.busWrite a v = none) :
    s.memWrite site a v = .raised (s.raise ⟨.bankCountZero, site.pc, site.opcode, some (a, v)⟩) := by
  simp [State.memWrite, h]

/-- Everything a byte write can do: the bus write and 4 cycles, or the fault and nothing else. -/
theorem State.memWrite_cases (s : State) (site : FaultSite) (a : Word) (v : Byte) :
    (∃ u, s.busWrite a v = some u ∧ s.memWrite site a v = .ok (u.spend 4))
    ∨ (s.busWrite a v = none
        ∧ s.memWrite site a v = .raised (s.raise ⟨.bankCountZero, site.pc, site.opcode, some (a, v)⟩)) := by
  cases h : s.busWrite a v with
  | some u => exact .inl ⟨u, rfl, State.memWrite_of_some h⟩
  | none => exact .inr ⟨rfl, State.memWrite_of_none h⟩

/-- The bus write of a state whose registers, cycles and draws differ. -/
theorem State.busWrite_some_setRegs {s u : State} {a : Word} {v : Byte} (r : Regs) (h : s.busWrite a v = some u) :
    (s.setRegs r).busWrite a v = some (u.setRegs r) := by simp [h]

/-- `Push16` where both writes are accepted (42_load16_stack.md R260). -/
theorem State.push16_of_some {s u1 u2 : State} {site : FaultSite} {v : Word}
    (h1 : s.busWrite (s.regs.sp - 1#16) (hiByte v) = some u1)
    (h2 : u1.busWrite (s.regs.sp - 2#16) (loByte v) = some u2) :
    s.push16 site v = .ok ((u2.setRegs { s.regs with sp := s.regs.sp - 2#16 }).spend 8) := by
  have hsp : s.regs.sp - 1#16 - 1#16 = s.regs.sp - 2#16 := by
    rw [BitVec.sub_sub]
    rfl
  simp only [State.push16, State.setSp_eq, State.setRegs_regs]
  rw [State.memWrite_of_some (State.busWrite_some_setRegs _ h1)]
  simp only [Flow.andThen_ok, State.spend_regs, State.setRegs_regs, hsp, State.spend_setRegs, State.setRegs_setRegs]
  rw [State.memWrite_of_some (u := (u2.setRegs { s.regs with sp := s.regs.sp - 2#16 }).spend 4)]
  · simp
  · simp [h2]

/-- `Push16` where the first write is not accepted: the fault, SP lowered by 1 (60_exceptions.md R400, R401; log 7). -/
theorem State.push16_of_none {s : State} {site : FaultSite} {v : Word}
    (h : s.busWrite (s.regs.sp - 1#16) (hiByte v) = none) :
    s.push16 site v = .raised ((s.setRegs { s.regs with sp := s.regs.sp - 1#16 }).raise
      ⟨.bankCountZero, site.pc, site.opcode, some (s.regs.sp - 1#16, hiByte v)⟩) := by
  simp only [State.push16, State.setSp_eq, State.setRegs_regs]
  rw [State.memWrite_of_none (by simp [h])]
  rfl

/-- `Push16` where the second write is not accepted: the first byte stays written, the fault, SP lowered by 2. -/
theorem State.push16_of_some_none {s u : State} {site : FaultSite} {v : Word}
    (h1 : s.busWrite (s.regs.sp - 1#16) (hiByte v) = some u)
    (h2 : u.busWrite (s.regs.sp - 2#16) (loByte v) = none) :
    s.push16 site v = .raised (((u.setRegs { s.regs with sp := s.regs.sp - 2#16 }).spend 4).raise
      ⟨.bankCountZero, site.pc, site.opcode, some (s.regs.sp - 2#16, loByte v)⟩) := by
  have hsp : s.regs.sp - 1#16 - 1#16 = s.regs.sp - 2#16 := by
    rw [BitVec.sub_sub]
    rfl
  simp only [State.push16, State.setSp_eq, State.setRegs_regs]
  rw [State.memWrite_of_some (State.busWrite_some_setRegs _ h1)]
  simp only [Flow.andThen_ok, State.spend_regs, State.setRegs_regs, hsp, State.spend_setRegs, State.setRegs_setRegs]
  rw [State.memWrite_of_none (by simp [h2])]

/-- `Pop16` (42_load16_stack.md R260): the low byte at SP, the high byte at SP + 1. -/
theorem State.pop16_eq (s : State) :
    s.pop16 = ((s.answer (s.regs.sp + 1#16)).value (s.draws + (s.answer s.regs.sp).drawn) ++ s.peek s.regs.sp,
      ((s.setRegs { s.regs with sp := s.regs.sp + 2#16 }).drew
        ((s.answer s.regs.sp).drawn + (s.answer (s.regs.sp + 1#16)).drawn)).spend 8) := by
  have hsp : s.regs.sp + 1#16 + 1#16 = s.regs.sp + 2#16 := by
    rw [BitVec.add_assoc]
    rfl
  simp [State.pop16, hsp]

end Sys2Proof.Machine
end

