-- ==== Sys2Proof/Laws/Invariant.lean ====
section
/-! SUPPORT. The operations keep the machine's invariant `State.wf`: canonical stores and bounded registers. -/

namespace Sys2Proof.Machine

/-! ### What the invariant does not look at -/

@[simp] theorem State.wf_setRegs (s : State) (r : Regs) : (s.setRegs r).wf = s.wf := rfl
@[simp] theorem State.wf_spend (s : State) (n : Nat) : (s.spend n).wf = s.wf := rfl
@[simp] theorem State.wf_drew (s : State) (n : Nat) : (s.drew n).wf = s.wf := rfl
@[simp] theorem State.wf_raise (s : State) (f : CoreFault) : (s.raise f).wf = s.wf := rfl
@[simp] theorem State.wf_attempt (s : State) (i : Source) : (s.attempt i).wf = s.wf := rfl
@[simp] theorem State.wf_requested (s : State) (v : BitVec 5) : State.wf { s with requested := v } = s.wf := rfl
@[simp] theorem State.wf_enabled (s : State) (v : BitVec 5) : State.wf { s with enabled := v } = s.wf := rfl
@[simp] theorem State.wf_ime (s : State) (b : Bool) : State.wf { s with ime := b } = s.wf := rfl

/-- The invariant, part by part. -/
theorem State.wf_iff (s : State) : s.wf = true ↔
    s.storesWf = true ∧ s.wramBank ≠ 0#3 ∧ s.timer.divAcc < 256 ∧ s.timer.timaAcc < 1024
    ∧ (s.bootEnabled = false ∨ s.boot.isSome = true)
    ∧ (s.mbc.romBanks = 0 ∨ (2 ≤ s.mbc.romBanks ∧ s.mbc.romBanks ≤ 512 ∧ s.mbc.romBank.toNat < s.mbc.romBanks)) := by
  simp only [State.wf, State.fieldsWf, Bool.and_eq_true, decide_eq_true_eq, Bool.or_eq_true, Bool.not_eq_true']
  tauto

/-! ### Writes -/

/-- A bank selection leaves the bank below the bank count (20_memory.md R126). -/
theorem Mbc.selectRom_lt {m m' : Mbc} {bank : Nat} (h : m.selectRom bank = some m') :
    m'.romBanks = m.romBanks ∧ m'.romBank.toNat < m.romBanks := by
  unfold Mbc.selectRom at h
  split at h
  · cases h
  · cases h
    refine ⟨rfl, ?_⟩
    simp only [BitVec.toNat_ofNat]
    exact lt_of_le_of_lt (Nat.mod_le _ _) (Nat.mod_lt _ (by omega))

/-- A command to the controller keeps the selected bank below the bank count. -/
theorem Mbc.write_bound {m m' : Mbc} {addr : Nat} {v : Byte} (h : m.write addr v = some m')
    (hb : m.romBanks = 0 ∨ (2 ≤ m.romBanks ∧ m.romBanks ≤ 512 ∧ m.romBank.toNat < m.romBanks)) :
    m'.romBanks = 0 ∨ (2 ≤ m'.romBanks ∧ m'.romBanks ≤ 512 ∧ m'.romBank.toNat < m'.romBanks) := by
  have sel : ∀ {bank}, m.selectRom bank = some m' →
      m'.romBanks = 0 ∨ (2 ≤ m'.romBanks ∧ m'.romBanks ≤ 512 ∧ m'.romBank.toNat < m'.romBanks) := by
    intro bank hs
    obtain ⟨h1, h2⟩ := Mbc.selectRom_lt hs
    rw [h1]
    rcases hb with hb | hb
    · exact .inl hb
    · exact .inr ⟨hb.1, hb.2.1, h2⟩
  unfold Mbc.write Mbc.write1 Mbc.write3 Mbc.write5 at h
  repeat' split at h
  all_goals first
    | exact sel h
    | (cases h; exact hb)

/-- Every bus write keeps the invariant. -/
theorem State.wf_busWrite {s u : State} {a : Word} {v : Byte} (hs : s.wf = true) (h : s.busWrite a v = some u) :
    u.wf = true := by
  have hs' := (State.wf_iff s).mp hs
  obtain ⟨hm, hw, hd, ht, hb, hr⟩ := hs'
  rcases State.busWrite_cases h with rfl | ⟨m, _, hm', rfl⟩ | ⟨off, hc, rfl⟩ | ⟨c, hc, hn, rfl⟩ | ⟨t, ht', rfl⟩ |
    rfl | rfl | rfl | rfl | rfl
  · exact hs
  · exact (State.wf_iff _).mpr ⟨hm, hw, hd, ht, hb, Mbc.write_bound hm' hr⟩
  · have := State.storesWf_writeCell v hm (State.storedCell_inRange hc).1
    exact (State.wf_iff _).mpr ⟨this, hw, hd, ht, hb, hr⟩
  · obtain ⟨hin, hrom, hboot⟩ := State.storedCell_inRange hc
    have := State.storesWf_writeCell v hm hin
    cases c with
    | rom off => exact absurd rfl (hrom off)
    | boot off => exact absurd rfl (hboot off)
    | eram off => exact absurd rfl (hn off)
    | wram off => exact (State.wf_iff _).mpr ⟨this, hw, hd, ht, hb, hr⟩
    | hram off => exact (State.wf_iff _).mpr ⟨this, hw, hd, ht, hb, hr⟩
  · refine (State.wf_iff _).mpr ⟨hm, hw, ?_, ?_, hb, hr⟩ <;>
      rcases ht' with rfl | rfl | rfl | rfl <;> first | assumption | exact Nat.zero_lt_succ _
  · exact hs
  · exact hs
  · exact hs
  · exact (State.wf_iff _).mpr ⟨hm, hw, hd, ht, .inl rfl, hr⟩
  · refine (State.wf_iff _).mpr ⟨hm, ?_, hd, ht, hb, hr⟩
    show svbkOf v ≠ 0#3
    unfold svbkOf
    split
    · decide
    · assumption

/-- A byte write keeps the invariant, raised or not. -/
theorem State.wf_memWrite {s : State} (site : FaultSite) (a : Word) (v : Byte) (hs : s.wf = true) :
    (s.memWrite site a v).state.wf = true := by
  rcases s.memWrite_cases site a v with ⟨u, hu, he⟩ | ⟨_, he⟩
  · rw [he]
    show u.wf = true
    exact State.wf_busWrite hs hu
  · rw [he]
    exact hs

/-- A course of actions that goes on with one that keeps the invariant keeps it. -/
theorem Flow.wf_andThen {f : Flow} {k : State → Flow} (hf : f.state.wf = true)
    (hk : ∀ s, s.wf = true → (k s).state.wf = true) : (f.andThen k).state.wf = true := by
  cases f with
  | ok s => exact hk s hf
  | raised s => exact hf

/-- A course of actions that goes on with an update that keeps the invariant keeps it. -/
theorem Flow.wf_thenDo {f : Flow} {k : State → State} (hf : f.state.wf = true)
    (hk : ∀ s, s.wf = true → (k s).wf = true) : (f.thenDo k).state.wf = true := by
  cases f with
  | ok s => exact hk s hf
  | raised s => exact hf

theorem State.wf_push16 {s : State} (site : FaultSite) (v : Word) (hs : s.wf = true) :
    (s.push16 site v).state.wf = true :=
  Flow.wf_andThen (State.wf_memWrite site _ _ (by simpa using hs)) fun t ht =>
    State.wf_memWrite site _ _ (by simpa using ht)

theorem State.wf_memWrite16 {s : State} (site : FaultSite) (a v : Word) (hs : s.wf = true) :
    (s.memWrite16 site a v).state.wf = true :=
  Flow.wf_andThen (State.wf_memWrite site _ _ hs) fun _ ht => State.wf_memWrite site _ _ ht

theorem State.wf_takeInterrupt {s : State} (i : Source) (hs : s.wf = true) :
    (s.takeInterrupt i).state.wf = true :=
  Flow.wf_thenDo (State.wf_push16 _ _ hs) fun _ ht => ht

theorem State.wf_returnFromInterrupt {s : State} (hs : s.wf = true) : s.returnFromInterrupt.wf = true := by
  rw [State.returnFromInterrupt, State.pop16_eq]
  exact hs

/-- The invariant holds after reset. -/
theorem State.fieldsWf_reset : State.reset.fieldsWf = true := by decide

end Sys2Proof.Machine
end

