-- ==== Sys2Proof/Laws/HostOps.lean ====
section
/-! SUPPORT. The host operations keep the stores canonical (70_reset_and_hazards.md R500, R510 to R513;
60_exceptions.md R450, R451). -/

namespace Sys2Proof.Machine

/-! ### Joining and filtering sparse stores -/

/-- Filtering by offset keeps offsets rising. -/
theorem Memory.risesFrom_filter {m : Memory} {low : Nat} (p : Host.Cell → Bool) (h : m.risesFrom low = true) :
    Memory.risesFrom low (m.filter p) = true := by
  induction m generalizing low with
  | nil => exact h
  | cons kv m ih =>
    obtain ⟨k, v⟩ := kv
    simp only [Memory.risesFrom, Bool.and_eq_true, decide_eq_true_eq] at h
    by_cases hp : p (k, v) = true
    · rw [List.filter_cons_of_pos (by exact hp)]
      simp only [Memory.risesFrom, Bool.and_eq_true, decide_eq_true_eq]
      exact ⟨h.1, ih h.2⟩
    · rw [List.filter_cons_of_neg (by exact hp)]
      exact ih (Memory.risesFrom_mono h.2 (by omega))

/-- What a filter for offsets from `mid` on leaves rises from `mid`. -/
theorem Memory.risesFrom_filter_ge {m : Memory} {low : Nat} (mid : Nat) (h : m.risesFrom low = true) :
    Memory.risesFrom mid (m.filter fun kv => decide (mid ≤ kv.1)) = true := by
  induction m generalizing low with
  | nil => rfl
  | cons kv m ih =>
    obtain ⟨k, v⟩ := kv
    simp only [Memory.risesFrom, Bool.and_eq_true, decide_eq_true_eq] at h
    by_cases hp : mid ≤ k
    · rw [List.filter_cons_of_pos (by simpa using hp)]
      simp only [Memory.risesFrom, Bool.and_eq_true, decide_eq_true_eq]
      exact ⟨hp, Memory.risesFrom_filter _ h.2⟩
    · rw [List.filter_cons_of_neg (by simpa using hp)]
      exact ih h.2

/-- A store below `mid` joined with one from `mid` on rises. -/
theorem Memory.risesFrom_append {m n : Memory} {low mid : Nat} (h : m.risesFrom low = true)
    (hm : ∀ kv, kv ∈ m → kv.1 < mid) (hn : n.risesFrom mid = true) (hl : low ≤ mid) :
    Memory.risesFrom low (m ++ n) = true := by
  induction m generalizing low with
  | nil => exact Memory.risesFrom_mono hn hl
  | cons kv m ih =>
    obtain ⟨k, v⟩ := kv
    simp only [Memory.risesFrom, Bool.and_eq_true, decide_eq_true_eq] at h
    simp only [List.cons_append, Memory.risesFrom, Bool.and_eq_true, decide_eq_true_eq]
    have hk : k < mid := hm (k, v) (by simp)
    exact ⟨h.1, ih h.2 (fun kv hkv => hm kv (by simp [hkv])) (by omega)⟩

/-! ### The host operations -/

/-- A controller's reset leaves the count of dirty bytes alone (20_memory.md R128; log 17). -/
@[simp] theorem Mbc.reset_dirty (m : Mbc) : m.reset.dirty = m.dirty := rfl

@[simp] theorem Mbc.reset_kind (m : Mbc) : m.reset.kind = m.kind := rfl
@[simp] theorem Mbc.reset_romBanks (m : Mbc) : m.reset.romBanks = m.romBanks := rfl
@[simp] theorem Mbc.reset_romBank (m : Mbc) : m.reset.romBank = 1#9 := rfl

/-- A new controller is as it is after reset (70_reset_and_hazards.md R510). -/
@[simp] theorem Mbc.reset_atReset (kind : MbcKind) (banks : Nat) :
    (Mbc.atReset kind banks).reset = Mbc.atReset kind banks := rfl

theorem State.storesWf_resetOp {s : State} (h : s.storesWf = true) : s.resetOp.storesWf = true := h

/-- Inserting a cartridge (R510, R511). -/
theorem State.storesWf_insertCartridge {s t : State} {img : List Byte} {saved : Option (List Byte)}
    (h : s.storesWf = true) (ht : s.insertCartridge img saved = some t) : t.storesWf = true := by
  simp only [State.storesWf, Bool.and_eq_true] at h
  obtain ⟨⟨⟨⟨⟨_, hb⟩, he⟩, hw⟩, hh⟩, hk⟩ := h
  unfold State.insertCartridge at ht
  split at ht
  · rename_i hl
    have hr := Memory.wf_ofBytes (some 0#8) Config.romCapacity img hl
    have hs : ∀ ram : List Byte, (eramOfImage ram).wf Config.eramCapacity (some 0xFF#8) = true := by
      intro ram
      refine Memory.wf_ofBytes _ _ _ ?_
      simp only [List.length_append, List.length_take, List.length_replicate]
      omega
    simp only at ht
    split at ht <;> cases ht <;> simp only [State.storesWf, Bool.and_eq_true]
    · exact ⟨⟨⟨⟨⟨hr, hb⟩, he⟩, hw⟩, hh⟩, hk⟩
    · exact ⟨⟨⟨⟨⟨hr, hb⟩, he⟩, hw⟩, hh⟩, hk⟩
    · exact ⟨⟨⟨⟨⟨hr, hb⟩, hs _⟩, hw⟩, hh⟩, hk⟩
  · cases ht

/-- Removing the cartridge (R512). -/
theorem State.storesWf_removeCartridge {s : State} (h : s.storesWf = true) :
    s.removeCartridge.storesWf = true := by
  simp only [State.storesWf, Bool.and_eq_true] at h ⊢
  obtain ⟨⟨⟨⟨⟨hr, hb⟩, he⟩, hw⟩, hh⟩, hk⟩ := h
  refine ⟨⟨⟨⟨⟨?_, hb⟩, he⟩, hw⟩, hh⟩, hk⟩
  have hlow : ∀ n, ((Memory.ofBytes (some 0#8) 0 (List.replicate n 0xFF#8)).all
      fun kv => decide (kv.1 < n) && decide (some 0#8 ≠ some kv.2)) = true := fun n =>
    Memory.all_ofBytes (some 0#8) 0 n (List.replicate n 0xFF#8) (by simp)
  have hlow := hlow 0x8000
  have hrise := Memory.risesFrom_ofBytes (some 0#8) 0 (List.replicate 0x8000 0xFF#8)
  simp only [State.removeCartridge]
  generalize Memory.ofBytes (some 0#8) 0 (List.replicate 0x8000 0xFF#8) = low at hlow hrise ⊢
  simp only [Memory.wf, Bool.and_eq_true, List.all_eq_true] at hr hlow ⊢
  refine ⟨Memory.risesFrom_append hrise (fun kv hkv => ?_) (Memory.risesFrom_filter_ge 0x8000 hr.1) (Nat.zero_le _), ?_⟩
  · exact of_decide_eq_true (hlow kv hkv).1
  · intro kv hkv
    rcases List.mem_append.mp hkv with hl | hl
    · refine ⟨?_, (hlow kv hl).2⟩
      have := of_decide_eq_true (hlow kv hl).1
      exact decide_eq_true (lt_of_lt_of_le this (by decide))
    · exact hr.2 kv (List.mem_of_mem_filter hl)

/-- Putting an entry into the cheat overlay (R451). -/
theorem State.storesWf_setCheat {s : State} (a : Word) (v : Byte) (h : s.storesWf = true) :
    (s.setCheat a v).storesWf = true := by
  simp only [State.storesWf, Bool.and_eq_true] at h ⊢
  exact ⟨h.1, Memory.wf_cheat_write a v h.2⟩

/-- Taking an entry out of the cheat overlay (R451). -/
theorem State.storesWf_clearCheat {s : State} (a : Word) (h : s.storesWf = true) :
    (s.clearCheat a).storesWf = true := by
  simp only [State.storesWf, Memory.wf, Bool.and_eq_true] at h ⊢
  exact ⟨h.1, Memory.risesFrom_erase a.toNat h.2.1, Memory.all_erase a.toNat h.2.2⟩

end Sys2Proof.Machine
end

