-- ==== Sys2Proof/Laws/PerInstr.lean ====
section
/-! SUPPORT. One lemma per constructor of Instr: an encoding is as long as the length table of 30_encoding.md R140 says
of its first byte. -/

namespace Sys2Proof.Laws.EncodedLength

/-- The encoding of an instruction is as long as the length table says of its opcode byte. -/
def Statement (i : Sys2Proof.Instr) : Prop := (Sys2Proof.encode i).length = Sys2Proof.lengthOf (Sys2Proof.opcodeOf i)

theorem ldRR (dst src : Reg8) : Statement (.ldRR dst src) := by cases dst <;> cases src <;> rfl
theorem ldRHl (dst : Reg8) : Statement (.ldRHl dst) := by cases dst <;> rfl
theorem ldHlR (src : Reg8) : Statement (.ldHlR src) := by cases src <;> rfl
theorem halt : Statement (.halt) := rfl
theorem addR (src : Reg8) : Statement (.addR src) := by cases src <;> rfl
theorem addHl : Statement (.addHl) := rfl
theorem addN (n : Byte) : Statement (.addN n) := rfl
theorem adcR (src : Reg8) : Statement (.adcR src) := by cases src <;> rfl
theorem adcHl : Statement (.adcHl) := rfl
theorem adcN (n : Byte) : Statement (.adcN n) := rfl
theorem subR (src : Reg8) : Statement (.subR src) := by cases src <;> rfl
theorem subHl : Statement (.subHl) := rfl
theorem subN (n : Byte) : Statement (.subN n) := rfl
theorem sbcR (src : Reg8) : Statement (.sbcR src) := by cases src <;> rfl
theorem sbcHl : Statement (.sbcHl) := rfl
theorem sbcN (n : Byte) : Statement (.sbcN n) := rfl
theorem andR (src : Reg8) : Statement (.andR src) := by cases src <;> rfl
theorem andHl : Statement (.andHl) := rfl
theorem andN (n : Byte) : Statement (.andN n) := rfl
theorem xorR (src : Reg8) : Statement (.xorR src) := by cases src <;> rfl
theorem xorHl : Statement (.xorHl) := rfl
theorem xorN (n : Byte) : Statement (.xorN n) := rfl
theorem orR (src : Reg8) : Statement (.orR src) := by cases src <;> rfl
theorem orHl : Statement (.orHl) := rfl
theorem orN (n : Byte) : Statement (.orN n) := rfl
theorem cpR (src : Reg8) : Statement (.cpR src) := by cases src <;> rfl
theorem cpHl : Statement (.cpHl) := rfl
theorem cpN (n : Byte) : Statement (.cpN n) := rfl
theorem nop : Statement (.nop) := rfl
theorem ldA16Sp (a : Word) : Statement (.ldA16Sp a) := rfl
theorem stop (n : Byte) : Statement (.stop n) := rfl
theorem jrE (e : Byte) : Statement (.jrE e) := rfl
theorem jrCc (cc : Cond) (e : Byte) : Statement (.jrCc cc e) := by cases cc <;> rfl
theorem ldRrN16 (rr : Reg16) (n : Word) : Statement (.ldRrN16 rr n) := by cases rr <;> rfl
theorem addHlRr (rr : Reg16) : Statement (.addHlRr rr) := by cases rr <;> rfl
theorem ldBcA : Statement (.ldBcA) := rfl
theorem ldDeA : Statement (.ldDeA) := rfl
theorem ldHlIncA : Statement (.ldHlIncA) := rfl
theorem ldHlDecA : Statement (.ldHlDecA) := rfl
theorem ldABc : Statement (.ldABc) := rfl
theorem ldADe : Statement (.ldADe) := rfl
theorem ldAHlInc : Statement (.ldAHlInc) := rfl
theorem ldAHlDec : Statement (.ldAHlDec) := rfl
theorem incRr (rr : Reg16) : Statement (.incRr rr) := by cases rr <;> rfl
theorem decRr (rr : Reg16) : Statement (.decRr rr) := by cases rr <;> rfl
theorem incR (r : Reg8) : Statement (.incR r) := by cases r <;> rfl
theorem incHl : Statement (.incHl) := rfl
theorem decR (r : Reg8) : Statement (.decR r) := by cases r <;> rfl
theorem decHl : Statement (.decHl) := rfl
theorem ldRN (r : Reg8) (n : Byte) : Statement (.ldRN r n) := by cases r <;> rfl
theorem ldHlN (n : Byte) : Statement (.ldHlN n) := rfl
theorem rlca : Statement (.rlca) := rfl
theorem rrca : Statement (.rrca) := rfl
theorem rla : Statement (.rla) := rfl
theorem rra : Statement (.rra) := rfl
theorem daa : Statement (.daa) := rfl
theorem cpl : Statement (.cpl) := rfl
theorem scf : Statement (.scf) := rfl
theorem ccf : Statement (.ccf) := rfl
theorem retCc (cc : Cond) : Statement (.retCc cc) := by cases cc <;> rfl
theorem ldhA8A (n : Byte) : Statement (.ldhA8A n) := rfl
theorem addSpE (e : Byte) : Statement (.addSpE e) := rfl
theorem ldhAA8 (n : Byte) : Statement (.ldhAA8 n) := rfl
theorem ldHlSpE (e : Byte) : Statement (.ldHlSpE e) := rfl
theorem popRr (rr : StackPair) : Statement (.popRr rr) := by cases rr <;> rfl
theorem popAf : Statement (.popAf) := rfl
theorem ret : Statement (.ret) := rfl
theorem reti : Statement (.reti) := rfl
theorem jpHl : Statement (.jpHl) := rfl
theorem ldSpHl : Statement (.ldSpHl) := rfl
theorem jpCc (cc : Cond) (a : Word) : Statement (.jpCc cc a) := by cases cc <;> rfl
theorem ldhCA : Statement (.ldhCA) := rfl
theorem ldA16A (a : Word) : Statement (.ldA16A a) := rfl
theorem ldhAC : Statement (.ldhAC) := rfl
theorem ldAA16 (a : Word) : Statement (.ldAA16 a) := rfl
theorem jpA16 (a : Word) : Statement (.jpA16 a) := rfl
theorem prefixCb (op2 : Byte) : Statement (.prefixCb op2) := rfl
theorem di : Statement (.di) := rfl
theorem ei : Statement (.ei) := rfl
theorem callCc (cc : Cond) (a : Word) : Statement (.callCc cc a) := by cases cc <;> rfl
theorem pushRr (rr : StackPair) : Statement (.pushRr rr) := by cases rr <;> rfl
theorem pushAf : Statement (.pushAf) := rfl
theorem callA16 (a : Word) : Statement (.callA16 a) := rfl
theorem rst (t : BitVec 3) : Statement (.rst t) := by unfold Statement; revert t; decide
theorem invalidD3 : Statement (.invalidD3) := rfl
theorem invalidDB : Statement (.invalidDB) := rfl
theorem invalidDD : Statement (.invalidDD) := rfl
theorem invalidE3 : Statement (.invalidE3) := rfl
theorem invalidE4 : Statement (.invalidE4) := rfl
theorem invalidEB : Statement (.invalidEB) := rfl
theorem invalidEC : Statement (.invalidEC) := rfl
theorem invalidED : Statement (.invalidED) := rfl
theorem invalidF4 : Statement (.invalidF4) := rfl
theorem invalidFC : Statement (.invalidFC) := rfl
theorem invalidFD : Statement (.invalidFD) := rfl
theorem rlcR (r : Reg8) : Statement (.rlcR r) := by cases r <;> rfl
theorem rlcHl : Statement (.rlcHl) := rfl
theorem rrcR (r : Reg8) : Statement (.rrcR r) := by cases r <;> rfl
theorem rrcHl : Statement (.rrcHl) := rfl
theorem rlR (r : Reg8) : Statement (.rlR r) := by cases r <;> rfl
theorem rlHl : Statement (.rlHl) := rfl
theorem rrR (r : Reg8) : Statement (.rrR r) := by cases r <;> rfl
theorem rrHl : Statement (.rrHl) := rfl
theorem slaR (r : Reg8) : Statement (.slaR r) := by cases r <;> rfl
theorem slaHl : Statement (.slaHl) := rfl
theorem sraR (r : Reg8) : Statement (.sraR r) := by cases r <;> rfl
theorem sraHl : Statement (.sraHl) := rfl
theorem swapR (r : Reg8) : Statement (.swapR r) := by cases r <;> rfl
theorem swapHl : Statement (.swapHl) := rfl
theorem srlR (r : Reg8) : Statement (.srlR r) := by cases r <;> rfl
theorem srlHl : Statement (.srlHl) := rfl
theorem bitR (b : BitVec 3) (r : Reg8) : Statement (.bitR b r) := rfl
theorem bitHl (b : BitVec 3) : Statement (.bitHl b) := rfl
theorem resR (b : BitVec 3) (r : Reg8) : Statement (.resR b r) := rfl
theorem resHl (b : BitVec 3) : Statement (.resHl b) := rfl
theorem setR (b : BitVec 3) (r : Reg8) : Statement (.setR b r) := rfl
theorem setHl (b : BitVec 3) : Statement (.setHl b) := rfl

end Sys2Proof.Laws.EncodedLength
end

