-- ==== Sys2Proof/Laws/Step.lean ====
section
/-! SUPPORT. What the Timer's advance, the environment's attempts and a step can do, said once. -/

namespace Sys2Proof.Machine

/-! ### Attempts -/

/-- Attempts change the requested set and nothing else (60_exceptions.md R412). -/
theorem State.attemptAll_frame (s : State) (is : List Attempt) :
    ∃ req, s.attemptAll is = { s with requested := req } := by
  induction is generalizing s with
  | nil => exact ⟨s.requested, rfl⟩
  | cons i is ih =>
    obtain ⟨req, h⟩ := ih (s.attempt i.source)
    exact ⟨req, h⟩

/-- What happens between two steps changes the requested set and the list of what is to come. -/
theorem State.takeArrivals_frame (s : State) :
    ∃ req later, s.takeArrivals = { s with requested := req, arrivals := later } := by
  unfold State.takeArrivals
  split
  · exact ⟨s.requested, s.arrivals, rfl⟩
  · rename_i now later _
    obtain ⟨req, h⟩ := State.attemptAll_frame { s with arrivals := later } now
    exact ⟨req, later, h⟩

@[simp] theorem State.attemptAll_nil (s : State) : s.attemptAll [] = s := rfl

@[simp] theorem State.attemptAll_cons (s : State) (i : Attempt) (is : List Attempt) :
    s.attemptAll (i :: is) = (s.attempt i.source).attemptAll is := rfl

/-- The environment never asks for the Timer's interrupt (00_scope.md R11, 60_exceptions.md R461). -/
theorem Attempt.source_ne_timer (i : Attempt) : i.source ≠ .timer := by cases i <;> decide

/-- The list of what is to come is taken up attempt by attempt, and nothing else of it is looked at. -/
theorem State.takeArrivals_cons {s : State} {now : List Attempt} {later : List (List Attempt)}
    (h : s.arrivals = now :: later) : s.takeArrivals = State.attemptAll { s with arrivals := later } now := by
  simp [State.takeArrivals, h]

/-- An attempt on one bit of the requested set (60_exceptions.md R412). -/
theorem Source.getLsbD_attemptOn (e r : BitVec 5) (i j : Source) :
    (j.attemptOn e r).getLsbD i.index = (r.getLsbD i.index || (e.getLsbD i.index && decide (j = i))) := by
  revert e r
  cases i <;> cases j <;> decide

theorem State.takeArrivals_nil {s : State} (h : s.arrivals = []) : s.takeArrivals = s := by
  simp [State.takeArrivals, h]

/-! ### The Timer (60_exceptions.md R443) -/

theorem timerPeriod_pos (speed : BitVec 2) : 0 < timerPeriod speed := by
  unfold timerPeriod
  split <;> decide

theorem timerPeriod_le (speed : BitVec 2) : timerPeriod speed ≤ 1024 := by
  unfold timerPeriod
  split <;> decide

/-- Increments of TIMA change TIMA and the requested set, and nothing else. -/
theorem State.timerTicks_frame (s : State) (k : Nat) :
    ∃ tima req, s.timerTicks k = { s with timer := { s.timer with tima := tima }, requested := req } := by
  induction k generalizing s with
  | zero => exact ⟨s.timer.tima, s.requested, rfl⟩
  | succ k ih =>
    simp only [State.timerTicks]
    split
    · obtain ⟨tima, req, h⟩ := ih (State.attempt { s with timer := s.timer.tick } .timer)
      exact ⟨tima, req, h⟩
    · obtain ⟨tima, req, h⟩ := ih { s with timer := s.timer.tick }
      exact ⟨tima, req, h⟩

/-- The Timer's advance changes DIV, TIMA, the two accumulators and the requested set, and nothing else; the
accumulators stay within their bounds (10_state.md R36). -/
theorem State.timerAdvance_frame (s : State) (n : Nat) :
    ∃ t req, s.timerAdvance n = { s with timer := t, requested := req } ∧ t.tma = s.timer.tma
      ∧ t.speed = s.timer.speed ∧ t.running = s.timer.running ∧ t.divAcc < 256
      ∧ (s.timer.timaAcc < 1024 → t.timaAcc < 1024) := by
  have hd : (s.timer.divAcc + n) % divPeriod < 256 := Nat.mod_lt _ (by decide)
  unfold State.timerAdvance State.advanceTima
  split
  · obtain ⟨tima, req, h⟩ := State.timerTicks_frame
      { s with timer := { s.timer.advanceDiv n with
        timaAcc := ((s.timer.advanceDiv n).timaAcc + n) % timerPeriod (s.timer.advanceDiv n).speed } }
      (((s.timer.advanceDiv n).timaAcc + n) / timerPeriod (s.timer.advanceDiv n).speed)
    refine ⟨_, _, h, rfl, rfl, rfl, hd, fun _ => ?_⟩
    exact lt_of_lt_of_le (Nat.mod_lt _ (timerPeriod_pos _)) (timerPeriod_le _)
  · exact ⟨s.timer.advanceDiv n, s.requested, rfl, rfl, rfl, rfl, hd, fun h => h⟩

/-! ### The end of a step -/

/-- Phase 5 changes `halted` alone. -/
theorem State.wake_frame (s : State) : ∃ b, s.wake = { s with halted := b } := by
  unfold State.wake
  split
  · exact ⟨false, rfl⟩
  · exact ⟨s.halted, rfl⟩

/-- Phase 6: nothing, or the dispatch of one source. -/
theorem State.service_cases (s : State) : s.service = s
    ∨ ∃ i, s.ime = true ∧ firstSource s.pending = some i ∧ s.service = (s.takeInterrupt i).state := by
  unfold State.service
  split
  · rename_i hc
    split
    · rename_i i hi
      exact .inr ⟨i, by simp_all, hi, rfl⟩
    · exact .inl rfl
  · exact .inl rfl

/-! ### The step (60_exceptions.md R430) -/

/-- The state in which phase 2 looks at PC. -/
def State.begun (s : State) : State := s.takeArrivals.activateEi

theorem State.begun_frame (s : State) : ∃ req later, s.begun =
    { s with requested := req, arrivals := later, ime := s.ime || s.eiPending, eiPending := false,
             stopped := false } := by
  obtain ⟨req, later, h⟩ := s.takeArrivals_frame
  exact ⟨req, later, by rw [State.begun, h]; rfl⟩

/-- Everything a step that answers a next state can do. -/
theorem step_cases {s t : State} (h : step s = .next t) : s.fault = none ∧
    ((s.begun.atBreakpoint = true ∧ t = s.begun.stopAtBreakpoint)
    ∨ (s.begun.atBreakpoint = false ∧ s.begun.halted = true ∧ t = s.begun.idle.finishStep)
    ∨ (s.begun.atBreakpoint = false ∧ s.begun.halted = false
        ∧ ∃ u, exec s.begun.fetch.1 s.begun.fetch.2 = .next u ∧ t = u.afterInstr)) := by
  obtain ⟨req, later, ha⟩ := s.takeArrivals_frame
  have hf : s.takeArrivals.fault = s.fault := by rw [ha]
  unfold step stepPhases at h
  rw [hf] at h
  cases hs : s.fault with
  | some f =>
    rw [hs] at h
    cases h
  | none =>
    rw [hs] at h
    refine ⟨rfl, ?_⟩
    simp only at h
    change (if s.begun.atBreakpoint = true then _ else _) = _ at h
    split at h
    · rename_i hb
      cases h
      exact .inl ⟨hb, rfl⟩
    · rename_i hb
      have hb' : s.begun.atBreakpoint = false := by simpa using hb
      split at h
      · rename_i hh
        cases h
        exact .inr (.inl ⟨hb', hh, rfl⟩)
      · rename_i hh
        have hh' : s.begun.halted = false := Bool.eq_false_iff.mpr hh
        refine .inr (.inr ⟨hb', hh', ?_⟩)
        change (match exec s.begun.fetch.1 s.begun.fetch.2 with | .next t => _ | .fault f => _ | .refused r => _) = _ at h
        cases he : exec s.begun.fetch.1 s.begun.fetch.2 with
        | next u =>
          rw [he] at h
          cases h
          exact ⟨u, rfl, rfl⟩
        | fault f =>
          rw [he] at h
          cases h
        | refused r =>
          rw [he] at h
          cases h

end Sys2Proof.Machine
end

