-- ==== Sys2Proof/Tests/Slice0.lean ====
section
/-! SUPPORT. Tests: the smoke test of well-formedness, decoding of words written out from the spec's tables, one-step
tests whose expected values are the spec's own vectors (95_test_vectors.md; a test named without a vector number is
calculated by hand from the rule it names), and witnesses for the hypotheses of the statements. -/

namespace Sys2Proof.Tests

open Sys2Proof.Machine Sys2Proof.Claims

/-! ### Well-formedness -/

/-- The one ill-formed term, the prefix alone, is refused (30_encoding.md R146). -/
theorem test_prefix_alone_is_refused : (Instr.prefixCb 0x00#8).wellFormed = false := by decide

theorem test_row_of_the_page_is_whole : (Instr.rlcR .b).wellFormed = true := by decide

/-! ### Decoding, one word at least for each constructor

The word has byte 0 in its lowest 8 bits, byte 1 above it, byte 2 above that. -/

/-- R148: `01 ddd sss`, selector 6 is (HL); 0x76 is HALT. -/
theorem test_decode_loads :
    decodeTableWord 8 0b01111000 = some (.ldRR .a .b)
    ∧ decodeTableWord 8 0b01000111 = some (.ldRR .b .a)
    ∧ decodeTableWord 8 0b01100110 = some (.ldRHl .h)
    ∧ decodeTableWord 8 0b01110101 = some (.ldHlR .l)
    ∧ decodeTableWord 8 0b01110110 = some .halt := by decide

/-- R149: `10 ooo sss`. -/
theorem test_decode_alu_register :
    decodeTableWord 8 0b10000000 = some (.addR .b)
    ∧ decodeTableWord 8 0b10000110 = some .addHl
    ∧ decodeTableWord 8 0b10001001 = some (.adcR .c)
    ∧ decodeTableWord 8 0b10001110 = some .adcHl
    ∧ decodeTableWord 8 0b10010010 = some (.subR .d)
    ∧ decodeTableWord 8 0b10010110 = some .subHl
    ∧ decodeTableWord 8 0b10011011 = some (.sbcR .e)
    ∧ decodeTableWord 8 0b10011110 = some .sbcHl
    ∧ decodeTableWord 8 0b10100100 = some (.andR .h)
    ∧ decodeTableWord 8 0b10100110 = some .andHl
    ∧ decodeTableWord 8 0b10101101 = some (.xorR .l)
    ∧ decodeTableWord 8 0b10101110 = some .xorHl
    ∧ decodeTableWord 8 0b10110111 = some (.orR .a)
    ∧ decodeTableWord 8 0b10110110 = some .orHl
    ∧ decodeTableWord 8 0b10111000 = some (.cpR .b)
    ∧ decodeTableWord 8 0b10111110 = some .cpHl := by decide

/-- R151: `11 ooo 110`, the byte after it. -/
theorem test_decode_alu_immediate :
    decodeTableWord 16 (0x0F00 + 0b11000110) = some (.addN 0x0F#8)
    ∧ decodeTableWord 16 (0x0F00 + 0b11001110) = some (.adcN 0x0F#8)
    ∧ decodeTableWord 16 (0x0F00 + 0b11010110) = some (.subN 0x0F#8)
    ∧ decodeTableWord 16 (0x0F00 + 0b11011110) = some (.sbcN 0x0F#8)
    ∧ decodeTableWord 16 (0xA500 + 0b11100110) = some (.andN 0xA5#8)
    ∧ decodeTableWord 16 (0xA500 + 0b11101110) = some (.xorN 0xA5#8)
    ∧ decodeTableWord 16 (0xA500 + 0b11110110) = some (.orN 0xA5#8)
    ∧ decodeTableWord 16 (0xA500 + 0b11111110) = some (.cpN 0xA5#8) := by decide

/-- R151, block 0: NOP, LD (a16),SP low byte first, STOP, JR. -/
theorem test_decode_block0_control :
    decodeTableWord 8 0b00000000 = some .nop
    ∧ decodeTableWord 24 (0xC10000 + 0b00001000) = some (.ldA16Sp 0xC100#16)
    ∧ decodeTableWord 16 (0x7F00 + 0b00010000) = some (.stop 0x7F#8)
    ∧ decodeTableWord 16 (0x0500 + 0b00011000) = some (.jrE 0x05#8)
    ∧ decodeTableWord 16 (0xFB00 + 0b00100000) = some (.jrCc .nz 0xFB#8)
    ∧ decodeTableWord 16 (0xFB00 + 0b00101000) = some (.jrCc .z 0xFB#8)
    ∧ decodeTableWord 16 (0xFB00 + 0b00110000) = some (.jrCc .nc 0xFB#8)
    ∧ decodeTableWord 16 (0xFB00 + 0b00111000) = some (.jrCc .c 0xFB#8) := by decide

/-- R151, block 0: the pair in bits 5 and 4. -/
theorem test_decode_block0_pairs :
    decodeTableWord 24 (0x123400 + 0b00000001) = some (.ldRrN16 .bc 0x1234#16)
    ∧ decodeTableWord 24 (0xD00000 + 0b00110001) = some (.ldRrN16 .sp 0xD000#16)
    ∧ decodeTableWord 8 0b00011001 = some (.addHlRr .de)
    ∧ decodeTableWord 8 0b00111001 = some (.addHlRr .sp)
    ∧ decodeTableWord 8 0b00100011 = some (.incRr .hl)
    ∧ decodeTableWord 8 0b00001011 = some (.decRr .bc) := by decide

/-- R151, block 0: the accumulator through BC, DE, HL+ and HL-. -/
theorem test_decode_block0_memory :
    decodeTableWord 8 0b00000010 = some .ldBcA
    ∧ decodeTableWord 8 0b00010010 = some .ldDeA
    ∧ decodeTableWord 8 0b00100010 = some .ldHlIncA
    ∧ decodeTableWord 8 0b00110010 = some .ldHlDecA
    ∧ decodeTableWord 8 0b00001010 = some .ldABc
    ∧ decodeTableWord 8 0b00011010 = some .ldADe
    ∧ decodeTableWord 8 0b00101010 = some .ldAHlInc
    ∧ decodeTableWord 8 0b00111010 = some .ldAHlDec := by decide

/-- R151, block 0: INC, DEC and LD n8 by selector. -/
theorem test_decode_block0_bytes :
    decodeTableWord 8 0b00111100 = some (.incR .a)
    ∧ decodeTableWord 8 0b00110100 = some .incHl
    ∧ decodeTableWord 8 0b00101101 = some (.decR .l)
    ∧ decodeTableWord 8 0b00110101 = some .decHl
    ∧ decodeTableWord 16 (0x7700 + 0b00011110) = some (.ldRN .e 0x77#8)
    ∧ decodeTableWord 16 (0xAB00 + 0b00110110) = some (.ldHlN 0xAB#8) := by decide

/-- R151, block 0: the column `00 yyy 111`. -/
theorem test_decode_block0_flags :
    decodeTableWord 8 0b00000111 = some .rlca
    ∧ decodeTableWord 8 0b00001111 = some .rrca
    ∧ decodeTableWord 8 0b00010111 = some .rla
    ∧ decodeTableWord 8 0b00011111 = some .rra
    ∧ decodeTableWord 8 0b00100111 = some .daa
    ∧ decodeTableWord 8 0b00101111 = some .cpl
    ∧ decodeTableWord 8 0b00110111 = some .scf
    ∧ decodeTableWord 8 0b00111111 = some .ccf := by decide

/-- R151, block 3: RET, RET cc, RETI, RST, JP HL, LD SP,HL. -/
theorem test_decode_block3_returns :
    decodeTableWord 8 0b11001001 = some .ret
    ∧ decodeTableWord 8 0b11000000 = some (.retCc .nz)
    ∧ decodeTableWord 8 0b11011000 = some (.retCc .c)
    ∧ decodeTableWord 8 0b11011001 = some .reti
    ∧ decodeTableWord 8 0b11101111 = some (.rst 5#3)
    ∧ decodeTableWord 8 0b11101001 = some .jpHl
    ∧ decodeTableWord 8 0b11111001 = some .ldSpHl := by decide

/-- R151, block 3: JP and CALL. -/
theorem test_decode_block3_jumps :
    decodeTableWord 24 (0x015000 + 0b11000011) = some (.jpA16 0x0150#16)
    ∧ decodeTableWord 24 (0xD00000 + 0b11001010) = some (.jpCc .z 0xD000#16)
    ∧ decodeTableWord 24 (0xD00000 + 0b11010010) = some (.jpCc .nc 0xD000#16)
    ∧ decodeTableWord 24 (0xD00000 + 0b11001101) = some (.callA16 0xD000#16)
    ∧ decodeTableWord 24 (0xD00000 + 0b11000100) = some (.callCc .nz 0xD000#16)
    ∧ decodeTableWord 24 (0xD00000 + 0b11011100) = some (.callCc .c 0xD000#16) := by decide

/-- R151, block 3: POP and PUSH, AF being pair 3; ADD SP,e8 and LD HL,SP+e8; DI and EI. -/
theorem test_decode_block3_stack :
    decodeTableWord 8 0b11010001 = some (.popRr .de)
    ∧ decodeTableWord 8 0b11110001 = some .popAf
    ∧ decodeTableWord 8 0b11100101 = some (.pushRr .hl)
    ∧ decodeTableWord 8 0b11110101 = some .pushAf
    ∧ decodeTableWord 16 (0xFF00 + 0b11101000) = some (.addSpE 0xFF#8)
    ∧ decodeTableWord 16 (0x0200 + 0b11111000) = some (.ldHlSpE 0x02#8)
    ∧ decodeTableWord 8 0b11110011 = some .di
    ∧ decodeTableWord 8 0b11111011 = some .ei := by decide

/-- R151, block 3: the high page and the absolute address. -/
theorem test_decode_block3_high_page :
    decodeTableWord 16 (0x8000 + 0b11100000) = some (.ldhA8A 0x80#8)
    ∧ decodeTableWord 16 (0x0F00 + 0b11110000) = some (.ldhAA8 0x0F#8)
    ∧ decodeTableWord 8 0b11100010 = some .ldhCA
    ∧ decodeTableWord 8 0b11110010 = some .ldhAC
    ∧ decodeTableWord 24 (0xC23400 + 0b11101010) = some (.ldA16A 0xC234#16)
    ∧ decodeTableWord 24 (0xE00000 + 0b11111010) = some (.ldAA16 0xE000#16) := by decide

/-- R153: the eleven invalid opcodes. -/
theorem test_decode_invalid :
    decodeTableWord 8 0xD3 = some .invalidD3
    ∧ decodeTableWord 8 0xDB = some .invalidDB
    ∧ decodeTableWord 8 0xDD = some .invalidDD
    ∧ decodeTableWord 8 0xE3 = some .invalidE3
    ∧ decodeTableWord 8 0xE4 = some .invalidE4
    ∧ decodeTableWord 8 0xEB = some .invalidEB
    ∧ decodeTableWord 8 0xEC = some .invalidEC
    ∧ decodeTableWord 8 0xED = some .invalidED
    ∧ decodeTableWord 8 0xF4 = some .invalidF4
    ∧ decodeTableWord 8 0xFC = some .invalidFC
    ∧ decodeTableWord 8 0xFD = some .invalidFD := by decide

/-- R152: `00 yyy sss` behind the prefix 0xCB. -/
theorem test_decode_page_rotates_of_registers :
    decodeTableWord 16 (0x100 * 0b00000000 + 0xCB) = some (.rlcR .b)
    ∧ decodeTableWord 16 (0x100 * 0b00001001 + 0xCB) = some (.rrcR .c)
    ∧ decodeTableWord 16 (0x100 * 0b00010010 + 0xCB) = some (.rlR .d)
    ∧ decodeTableWord 16 (0x100 * 0b00011011 + 0xCB) = some (.rrR .e)
    ∧ decodeTableWord 16 (0x100 * 0b00100100 + 0xCB) = some (.slaR .h)
    ∧ decodeTableWord 16 (0x100 * 0b00101101 + 0xCB) = some (.sraR .l)
    ∧ decodeTableWord 16 (0x100 * 0b00110111 + 0xCB) = some (.swapR .a)
    ∧ decodeTableWord 16 (0x100 * 0b00111000 + 0xCB) = some (.srlR .b) := by decide

/-- R152: selector 6 is (HL). -/
theorem test_decode_page_rotates_of_memory :
    decodeTableWord 16 (0x100 * 0b00000110 + 0xCB) = some .rlcHl
    ∧ decodeTableWord 16 (0x100 * 0b00001110 + 0xCB) = some .rrcHl
    ∧ decodeTableWord 16 (0x100 * 0b00010110 + 0xCB) = some .rlHl
    ∧ decodeTableWord 16 (0x100 * 0b00011110 + 0xCB) = some .rrHl
    ∧ decodeTableWord 16 (0x100 * 0b00100110 + 0xCB) = some .slaHl
    ∧ decodeTableWord 16 (0x100 * 0b00101110 + 0xCB) = some .sraHl
    ∧ decodeTableWord 16 (0x100 * 0b00110110 + 0xCB) = some .swapHl
    ∧ decodeTableWord 16 (0x100 * 0b00111110 + 0xCB) = some .srlHl := by decide

/-- R152: `xx bbb sss`; vectors E4, E5, E6. -/
theorem test_decode_page_bits :
    decodeTableWord 16 (0x100 * 0b01100101 + 0xCB) = some (.bitR 4#3 .l)
    ∧ decodeTableWord 16 (0x100 * 0b01110110 + 0xCB) = some (.bitHl 6#3)
    ∧ decodeTableWord 16 (0x100 * 0b10111111 + 0xCB) = some (.resR 7#3 .a)
    ∧ decodeTableWord 16 (0x100 * 0b10001110 + 0xCB) = some (.resHl 1#3)
    ∧ decodeTableWord 16 (0x100 * 0b11001011 + 0xCB) = some (.setR 1#3 .e)
    ∧ decodeTableWord 16 (0x100 * 0b11010011 + 0xCB) = some (.setR 2#3 .e)
    ∧ decodeTableWord 16 (0x100 * 0b11111110 + 0xCB) = some (.setHl 7#3) := by decide

/-- The prefix row is the first stage of decoding (30_encoding.md R146), and its term encodes the two bytes. -/
theorem test_prefix_stage : decodeBase 0xCB#8 0x7E#8 0x00#8 = .prefixCb 0x7E#8
    ∧ encode (.prefixCb 0x7E#8) = [0xCB#8, 0x7E#8] := by decide

/-- Missing bytes are refused by name. -/
theorem test_missing_bytes :
    (decode [] matches .error .noBytes) ∧ (decode [0x01#8, 0x00#8] matches .error (.truncated _)) := by decide

/-! ### One step -/

/-- The vectors' base state (95_test_vectors.md, Conventions) with code at 0xC000 and a register file. -/
def base (code : List Byte) (f : Regs → Regs := id) : State :=
  { State.reset with
    cgb := true
    regs := f { Regs.postBoot with pc := 0xC000#16 }
    wram := Memory.ofBytes none 0 code }

/-- The base state with bytes in work RAM from 0xC100 on. -/
def withData (s : State) (bytes : List Byte) : State :=
  { s with wram := s.wram ++ Memory.ofBytes none 0x100 bytes }

/-- The base state with bytes on the stack: in work RAM from 0xCEFE on. -/
def withStack (s : State) (bytes : List Byte) : State :=
  { s with wram := s.wram ++ Memory.ofBytes none 0xEFE bytes }

/-- The state after one step, `s` itself where the step answers no next state. -/
def after (s : State) : State :=
  match step s with
  | .next t => t
  | _ => s

/-- The flags from their byte. -/
def fl (v : Byte) : Machine.Flags := Flags.ofByte v

/-! 8-bit loads (40_load8.md) -/

theorem test_L1_ldRR :
    let t := after (base [0x41#8] fun r => { r with c := 0x5A#8 })
    t.regs.b = 0x5A#8 ∧ t.regs.pc = 0xC001#16 ∧ t.cycles = 4 ∧ t.regs.f = fl 0xB0#8 := by decide

theorem test_L2_ldHlR :
    let t := after (base [0x77#8] fun r => { r with a := 0x99#8, h := 0xC1#8, l := 0x00#8 })
    t.peek 0xC100#16 = 0x99#8 ∧ t.regs.pc = 0xC001#16 ∧ t.cycles = 8 := by decide

theorem test_L3_ldRHl :
    let t := after (withData (base [0x7E#8] fun r => { r with h := 0xC1#8, l := 0x00#8 }) [0x42#8])
    t.regs.a = 0x42#8 ∧ t.cycles = 8 := by decide

theorem test_L4_ldRHl_into_h :
    let t := after (withData (base [0x66#8] fun r => { r with h := 0xC1#8, l := 0x00#8 }) [0xD0#8])
    t.regs.hl = 0xD000#16 ∧ t.cycles = 8 := by decide

theorem test_L5_ldRN :
    let t := after (base [0x1E#8, 0x77#8])
    t.regs.e = 0x77#8 ∧ t.regs.pc = 0xC002#16 ∧ t.cycles = 8 := by decide

theorem test_L6_ldHlN :
    let t := after (base [0x36#8, 0xAB#8] fun r => { r with h := 0xC2#8, l := 0x00#8 })
    t.peek 0xC200#16 = 0xAB#8 ∧ t.regs.pc = 0xC002#16 ∧ t.cycles = 12 := by decide

theorem test_L7_ldABc :
    let t := after (withData (base [0x0A#8] fun r => { r with b := 0xC1#8, c := 0x00#8 }) [0x11#8])
    t.regs.a = 0x11#8 ∧ t.cycles = 8 := by decide

theorem test_R206_ldADe :
    let t := after (withData (base [0x1A#8] fun r => { r with d := 0xC1#8, e := 0x00#8 }) [0x36#8])
    t.regs.a = 0x36#8 ∧ t.cycles = 8 := by decide

theorem test_R207_ldBcA :
    let t := after (base [0x02#8] fun r => { r with a := 0x24#8, b := 0xC1#8, c := 0x02#8 })
    t.peek 0xC102#16 = 0x24#8 ∧ t.cycles = 8 := by decide

theorem test_L8_ldDeA :
    let t := after (base [0x12#8] fun r => { r with a := 0x22#8, d := 0xC1#8, e := 0x01#8 })
    t.peek 0xC101#16 = 0x22#8 ∧ t.cycles = 8 := by decide

theorem test_L9_ldAHlInc :
    let t := after ({ base [0x2A#8] fun r => { r with h := 0xFF#8, l := 0xFF#8 } with enabled := 0x15#5 })
    t.regs.a = 0x15#8 ∧ t.regs.hl = 0x0000#16 ∧ t.cycles = 8 := by decide

theorem test_L10_ldHlDecA :
    let t := after (base [0x32#8] fun r => { r with a := 0x33#8, h := 0x00#8, l := 0x00#8 })
    t.regs.hl = 0xFFFF#16 ∧ t.cycles = 8 ∧ t.mbc = State.reset.mbc := by decide

theorem test_L11_ldHlIncA :
    let t := after (base [0x22#8] fun r => { r with a := 0x44#8, h := 0xC1#8, l := 0xFF#8 })
    t.peek 0xC1FF#16 = 0x44#8 ∧ t.regs.hl = 0xC200#16 ∧ t.cycles = 8 := by decide

theorem test_L12_ldAHlDec :
    let t := after (withData (base [0x3A#8] fun r => { r with h := 0xC1#8, l := 0x00#8 }) [0x55#8])
    t.regs.a = 0x55#8 ∧ t.regs.hl = 0xC0FF#16 ∧ t.cycles = 8 := by decide

theorem test_L14_ldhA8A :
    let t := after (base [0xE0#8, 0x80#8] fun r => { r with a := 0x66#8 })
    t.peek 0xFF80#16 = 0x66#8 ∧ t.regs.pc = 0xC002#16 ∧ t.cycles = 12 := by decide

theorem test_L15_ldhAA8 :
    let t := after ({ base [0xF0#8, 0x0F#8] with requested := 0x05#5 })
    t.regs.a = 0x05#8 ∧ t.cycles = 12 := by decide

theorem test_L16_ldhCA :
    let t := after (base [0xE2#8] fun r => { r with a := 0x1F#8, c := 0xFF#8 })
    t.enabled = 0x1F#5 ∧ t.peek 0xFFFF#16 = 0x1F#8 ∧ t.regs.pc = 0xC001#16 ∧ t.cycles = 8 := by decide

theorem test_L17_ldhAC :
    let t := after ({ base [0xF2#8] fun r => { r with c := 0x81#8 } with hram := [(1, 0x77#8)] })
    t.regs.a = 0x77#8 ∧ t.cycles = 8 := by decide

theorem test_L18_ldA16A :
    let t := after (base [0xEA#8, 0x34#8, 0xC2#8] fun r => { r with a := 0x88#8 })
    t.peek 0xC234#16 = 0x88#8 ∧ t.regs.pc = 0xC003#16 ∧ t.cycles = 16 := by decide

theorem test_L19_ldAA16 :
    let t := after (base [0xFA#8, 0x00#8, 0xE0#8])
    t.regs.a = 0xFA#8 ∧ t.cycles = 16 := by decide

/-! 8-bit arithmetic and logic (41_alu8.md) -/

theorem test_A1_addR :
    let t := after (base [0x80#8] fun r => { r with a := 0x3A#8, b := 0xC6#8, f := fl 0x00#8 })
    t.regs.a = 0x00#8 ∧ t.regs.f = fl 0xB0#8 ∧ t.cycles = 4 := by decide

theorem test_A2_addR_without_carry_in :
    let t := after (base [0x80#8] fun r => { r with a := 0x0F#8, b := 0x01#8, f := fl 0xF0#8 })
    t.regs.a = 0x10#8 ∧ t.regs.f = fl 0x20#8 := by decide

theorem test_R232_addHl :
    let t := after (withData (base [0x86#8]
      fun r => { r with a := 0x3C#8, h := 0xC1#8, l := 0x00#8 }) [0x12#8])
    t.regs.a = 0x4E#8 ∧ t.regs.f = fl 0x00#8 ∧ t.cycles = 8 := by decide

theorem test_R233_addN :
    let t := after (base [0xC6#8, 0x45#8] fun r => { r with a := 0x38#8, f := fl 0x00#8 })
    t.regs.a = 0x7D#8 ∧ t.regs.f = fl 0x00#8 ∧ t.cycles = 8 := by decide

theorem test_A4_adcR :
    let t := after (base [0x89#8] fun r => { r with a := 0xE1#8, c := 0x0F#8, f := fl 0x10#8 })
    t.regs.a = 0xF1#8 ∧ t.regs.f = fl 0x20#8 := by decide

theorem test_A5_adcN :
    let t := after (base [0xCE#8, 0x00#8] fun r => { r with a := 0xFF#8, f := fl 0x10#8 })
    t.regs.a = 0x00#8 ∧ t.regs.f = fl 0xB0#8 ∧ t.cycles = 8 := by decide

theorem test_A6_adcHl :
    let t := after (withData (base [0x8E#8]
      fun r => { r with a := 0x0F#8, h := 0xC1#8, l := 0x00#8, f := fl 0x10#8 }) [0x00#8])
    t.regs.a = 0x10#8 ∧ t.regs.f = fl 0x20#8 ∧ t.cycles = 8 := by decide

theorem test_A7_subR :
    let t := after (base [0x93#8] fun r => { r with a := 0x3E#8, e := 0x3E#8, f := fl 0x00#8 })
    t.regs.a = 0x00#8 ∧ t.regs.f = fl 0xC0#8 := by decide

theorem test_A8_subN :
    let t := after (base [0xD6#8, 0x0F#8] fun r => { r with a := 0x3E#8, f := fl 0x00#8 })
    t.regs.a = 0x2F#8 ∧ t.regs.f = fl 0x60#8 ∧ t.cycles = 8 := by decide

theorem test_A9_subHl :
    let t := after (withData (base [0x96#8]
      fun r => { r with a := 0x3E#8, h := 0xC1#8, l := 0x00#8, f := fl 0x00#8 }) [0x40#8])
    t.regs.a = 0xFE#8 ∧ t.regs.f = fl 0x50#8 ∧ t.cycles = 8 := by decide

theorem test_A10_sbcR :
    let t := after (base [0x9C#8] fun r => { r with a := 0x3B#8, h := 0x2A#8, f := fl 0x10#8 })
    t.regs.a = 0x10#8 ∧ t.regs.f = fl 0x40#8 := by decide

theorem test_A11_sbcN :
    let t := after (base [0xDE#8, 0x00#8] fun r => { r with a := 0x00#8, f := fl 0x10#8 })
    t.regs.a = 0xFF#8 ∧ t.regs.f = fl 0x70#8 := by decide

theorem test_A12_sbcN_zero :
    let t := after (base [0xDE#8, 0x0F#8] fun r => { r with a := 0x10#8, f := fl 0x10#8 })
    t.regs.a = 0x00#8 ∧ t.regs.f = fl 0xE0#8 := by decide

theorem test_R241_sbcHl :
    let t := after (withData (base [0x9E#8]
      fun r => { r with a := 0x3B#8, h := 0xC1#8, l := 0x00#8, f := fl 0x10#8 }) [0x4F#8])
    t.regs.a = 0xEB#8 ∧ t.regs.f = fl 0x70#8 ∧ t.cycles = 8 := by decide

theorem test_A13_andR :
    let t := after (base [0xA5#8] fun r => { r with a := 0x5A#8, l := 0x3F#8, f := fl 0x50#8 })
    t.regs.a = 0x1A#8 ∧ t.regs.f = fl 0x20#8 := by decide

theorem test_A14_andN :
    let t := after (base [0xE6#8, 0xA5#8] fun r => { r with a := 0x5A#8, f := fl 0x00#8 })
    t.regs.a = 0x00#8 ∧ t.regs.f = fl 0xA0#8 := by decide

theorem test_R244_andHl :
    let t := after (withData (base [0xA6#8]
      fun r => { r with a := 0x5A#8, h := 0xC1#8, l := 0x00#8 }) [0x3F#8])
    t.regs.a = 0x1A#8 ∧ t.regs.f = fl 0x20#8 ∧ t.cycles = 8 := by decide

theorem test_A15_xorR :
    let t := after (base [0xAF#8] fun r => { r with a := 0x77#8, f := fl 0xF0#8 })
    t.regs.a = 0x00#8 ∧ t.regs.f = fl 0x80#8 ∧ t.cycles = 4 := by decide

theorem test_A16_xorN :
    let t := after (base [0xEE#8, 0x0F#8] fun r => { r with a := 0xFF#8, f := fl 0xF0#8 })
    t.regs.a = 0xF0#8 ∧ t.regs.f = fl 0x00#8 := by decide

theorem test_R247_xorHl :
    let t := after (withData (base [0xAE#8]
      fun r => { r with a := 0xFF#8, h := 0xC1#8, l := 0x00#8 }) [0x8A#8])
    t.regs.a = 0x75#8 ∧ t.regs.f = fl 0x00#8 ∧ t.cycles = 8 := by decide

theorem test_A17_orR :
    let t := after (base [0xB0#8] fun r => { r with a := 0x00#8, b := 0x00#8, f := fl 0xF0#8 })
    t.regs.a = 0x00#8 ∧ t.regs.f = fl 0x80#8 := by decide

theorem test_A18_orHl :
    let t := after (withData (base [0xB6#8]
      fun r => { r with a := 0x5A#8, h := 0xC1#8, l := 0x00#8, f := fl 0xF0#8 }) [0x0F#8])
    t.regs.a = 0x5F#8 ∧ t.regs.f = fl 0x00#8 ∧ t.cycles = 8 := by decide

theorem test_R251_orN :
    let t := after (base [0xF6#8, 0x03#8] fun r => { r with a := 0x5A#8 })
    t.regs.a = 0x5B#8 ∧ t.regs.f = fl 0x00#8 ∧ t.cycles = 8 := by decide

theorem test_A19_cpR :
    let t := after (base [0xB8#8] fun r => { r with a := 0x3C#8, b := 0x2F#8, f := fl 0x00#8 })
    t.regs.a = 0x3C#8 ∧ t.regs.f = fl 0x60#8 := by decide

theorem test_A20_cpN :
    let t := after (base [0xFE#8, 0x3C#8] fun r => { r with a := 0x3C#8, f := fl 0x00#8 })
    t.regs.a = 0x3C#8 ∧ t.regs.f = fl 0xC0#8 := by decide

theorem test_A21_cpHl :
    let t := after (withData (base [0xBE#8]
      fun r => { r with a := 0x3C#8, h := 0xC1#8, l := 0x00#8, f := fl 0x00#8 }) [0x40#8])
    t.regs.a = 0x3C#8 ∧ t.regs.f = fl 0x50#8 ∧ t.cycles = 8 := by decide

theorem test_A22_incR :
    let t := after (base [0x04#8] fun r => { r with b := 0xFF#8, f := fl 0x10#8 })
    t.regs.b = 0x00#8 ∧ t.regs.f = fl 0xB0#8 := by decide

theorem test_A24_incHl :
    let t := after (withData (base [0x34#8]
      fun r => { r with h := 0xC1#8, l := 0x00#8, f := fl 0xF0#8 }) [0x50#8])
    t.peek 0xC100#16 = 0x51#8 ∧ t.regs.f = fl 0x10#8 ∧ t.cycles = 12 := by decide

theorem test_A25_decR :
    let t := after (base [0x2D#8] fun r => { r with l := 0x01#8, f := fl 0x00#8 })
    t.regs.l = 0x00#8 ∧ t.regs.f = fl 0xC0#8 := by decide

theorem test_A26_decR_wraps :
    let t := after (base [0x05#8] fun r => { r with b := 0x00#8, f := fl 0x10#8 })
    t.regs.b = 0xFF#8 ∧ t.regs.f = fl 0x70#8 := by decide

theorem test_A27_decHl :
    let t := after (withData (base [0x35#8]
      fun r => { r with h := 0xC1#8, l := 0x00#8, f := fl 0x00#8 }) [0x10#8])
    t.peek 0xC100#16 = 0x0F#8 ∧ t.regs.f = fl 0x60#8 ∧ t.cycles = 12 := by decide

/-! 16-bit loads, the stack and 16-bit arithmetic (42_load16_stack.md, 43_alu16.md) -/

theorem test_W1_ldRrN16 :
    let t := after (base [0x01#8, 0x34#8, 0x12#8])
    t.regs.bc = 0x1234#16 ∧ t.regs.pc = 0xC003#16 ∧ t.cycles = 12 := by decide

theorem test_W3_ldA16Sp :
    let t := after (base [0x08#8, 0x00#8, 0xC1#8] fun r => { r with sp := 0xFFF8#16 })
    t.peek 0xC100#16 = 0xF8#8 ∧ t.peek 0xC101#16 = 0xFF#8 ∧ t.cycles = 20 := by decide

theorem test_W4_ldSpHl :
    let t := after (base [0xF9#8] fun r => { r with h := 0xD1#8, l := 0x23#8 })
    t.regs.sp = 0xD123#16 ∧ t.cycles = 8 := by decide

theorem test_W6_ldHlSpE :
    let t := after (base [0xF8#8, 0xFF#8] fun r => { r with sp := 0x0000#16, f := fl 0xF0#8 })
    t.regs.hl = 0xFFFF#16 ∧ t.regs.f = fl 0x00#8 ∧ t.cycles = 12 := by decide

theorem test_W7_ldHlSpE_carries :
    let t := after (base [0xF8#8, 0x01#8] fun r => { r with sp := 0x00FF#16, f := fl 0x00#8 })
    t.regs.hl = 0x0100#16 ∧ t.regs.f = fl 0x30#8 ∧ t.regs.sp = 0x00FF#16 := by decide

theorem test_W9_pushRr :
    let t := after (base [0xC5#8] fun r => { r with b := 0x12#8, c := 0x34#8, sp := 0xD000#16 })
    t.peek 0xCFFF#16 = 0x12#8 ∧ t.peek 0xCFFE#16 = 0x34#8 ∧ t.regs.sp = 0xCFFE#16 ∧ t.cycles = 16 := by decide

theorem test_W13_pushRr_into_registers :
    let t := after (base [0xE5#8] fun r => { r with h := 0xBE#8, l := 0xEF#8, sp := 0x0001#16 })
    t.enabled = 0x0F#5 ∧ t.regs.sp = 0xFFFF#16 ∧ t.cycles = 16 := by decide

theorem test_W10_pushAf :
    let t := after (base [0xF5#8] fun r => { r with a := 0x12#8, f := fl 0xF0#8, sp := 0xD000#16 })
    t.peek 0xCFFF#16 = 0x12#8 ∧ t.peek 0xCFFE#16 = 0xF0#8 ∧ t.regs.sp = 0xCFFE#16 ∧ t.cycles = 16 := by decide

theorem test_W11_popRr :
    let t := after (withStack (base [0xD1#8] fun r => { r with sp := 0xCEFE#16 }) [0xCD#8, 0xAB#8])
    t.regs.de = 0xABCD#16 ∧ t.regs.sp = 0xCF00#16 ∧ t.cycles = 12 := by decide

theorem test_W14_popRr_from_registers :
    let t := after ({ base [0xE1#8] fun r => { r with sp := 0xFFFF#16 } with enabled := 0x1F#5 })
    t.regs.hl = 0x001F#16 ∧ t.regs.sp = 0x0001#16 ∧ t.cycles = 12 := by decide

theorem test_L13_popAf :
    let t := after (withStack (base [0xF1#8] fun r => { r with sp := 0xCEFE#16 }) [0xFF#8, 0x12#8])
    t.regs.a = 0x12#8 ∧ t.regs.f = fl 0xF0#8 ∧ t.regs.sp = 0xCF00#16 ∧ t.cycles = 12 := by decide

theorem test_W12_popAf_one_flag :
    let t := after (withStack (base [0xF1#8] fun r => { r with sp := 0xCEFE#16 }) [0x5F#8, 0x00#8])
    t.regs.a = 0x00#8 ∧ t.regs.f = fl 0x50#8 := by decide

theorem test_X1_addHlRr :
    let t := after (base [0x09#8]
      fun r => { r with h := 0x8A#8, l := 0x23#8, b := 0x06#8, c := 0x05#8, f := fl 0x80#8 })
    t.regs.hl = 0x9028#16 ∧ t.regs.f = fl 0xA0#8 ∧ t.cycles = 8 := by decide

theorem test_X4_addHlRr_zero :
    let t := after (base [0x19#8]
      fun r => { r with h := 0xFF#8, l := 0xFF#8, d := 0x00#8, e := 0x01#8, f := fl 0x00#8 })
    t.regs.hl = 0x0000#16 ∧ t.regs.f = fl 0x30#8 := by decide

theorem test_X5_incRr :
    let t := after (base [0x03#8] fun r => { r with b := 0xFF#8, c := 0xFF#8, f := fl 0x00#8 })
    t.regs.bc = 0x0000#16 ∧ t.regs.f = fl 0x00#8 ∧ t.cycles = 8 := by decide

theorem test_X7_decRr :
    let t := after (base [0x1B#8] fun r => { r with d := 0x00#8, e := 0x00#8, f := fl 0xF0#8 })
    t.regs.de = 0xFFFF#16 ∧ t.regs.f = fl 0xF0#8 := by decide

theorem test_X9_addSpE :
    let t := after (base [0xE8#8, 0x02#8] fun r => { r with sp := 0xFFF8#16, f := fl 0xF0#8 })
    t.regs.sp = 0xFFFA#16 ∧ t.regs.f = fl 0x00#8 ∧ t.cycles = 16 := by decide

theorem test_X10_addSpE_negative :
    let t := after (base [0xE8#8, 0xFF#8] fun r => { r with sp := 0xD000#16, f := fl 0x00#8 })
    t.regs.sp = 0xCFFF#16 ∧ t.regs.f = fl 0x00#8 := by decide

/-! Control transfers (44_control.md) -/

theorem test_J1_jpA16 :
    let t := after (base [0xC3#8, 0x50#8, 0x01#8])
    t.regs.pc = 0x0150#16 ∧ t.cycles = 16 := by decide

theorem test_J2_jpCc :
    let t := after (base [0xC2#8, 0x00#8, 0xD0#8] fun r => { r with f := fl 0x00#8 })
    t.regs.pc = 0xD000#16 ∧ t.cycles = 16 := by decide

theorem test_J3_jpCc_not :
    let t := after (base [0xC2#8, 0x00#8, 0xD0#8] fun r => { r with f := fl 0x80#8 })
    t.regs.pc = 0xC003#16 ∧ t.cycles = 12 := by decide

theorem test_J5_jpHl :
    let t := after (base [0xE9#8] fun r => { r with h := 0xD1#8, l := 0x23#8 })
    t.regs.pc = 0xD123#16 ∧ t.cycles = 4 := by decide

theorem test_J6_jrE :
    let t := after (base [0x18#8, 0x05#8])
    t.regs.pc = 0xC007#16 ∧ t.cycles = 12 := by decide

theorem test_J8_jrE_back :
    let t := after (base [0x18#8, 0x80#8])
    t.regs.pc = 0xBF82#16 ∧ t.cycles = 12 := by decide

theorem test_J10_jrCc_not :
    let t := after (base [0x28#8, 0x05#8] fun r => { r with f := fl 0x00#8 })
    t.regs.pc = 0xC002#16 ∧ t.cycles = 8 := by decide

theorem test_J11_jrCc :
    let t := after (base [0x30#8, 0xFB#8] fun r => { r with f := fl 0x00#8 })
    t.regs.pc = 0xBFFD#16 ∧ t.cycles = 12 := by decide

theorem test_J13_callA16 :
    let t := after (base [0xCD#8, 0x00#8, 0xD0#8] fun r => { r with sp := 0xCF00#16 })
    t.peek 0xCEFF#16 = 0xC0#8 ∧ t.peek 0xCEFE#16 = 0x03#8 ∧ t.regs.sp = 0xCEFE#16 ∧ t.regs.pc = 0xD000#16
    ∧ t.cycles = 24 := by decide

theorem test_J14_callCc_not :
    let t := after (base [0xCC#8, 0x00#8, 0xD0#8] fun r => { r with f := fl 0x00#8, sp := 0xCF00#16 })
    t.regs.pc = 0xC003#16 ∧ t.regs.sp = 0xCF00#16 ∧ t.cycles = 12 := by decide

theorem test_J15_callCc :
    let t := after (base [0xD4#8, 0x00#8, 0xD0#8] fun r => { r with f := fl 0x00#8, sp := 0xCF00#16 })
    t.peek 0xCEFF#16 = 0xC0#8 ∧ t.peek 0xCEFE#16 = 0x03#8 ∧ t.regs.sp = 0xCEFE#16 ∧ t.regs.pc = 0xD000#16
    ∧ t.cycles = 24 := by decide

theorem test_J16_ret :
    let t := after (withStack (base [0xC9#8] fun r => { r with sp := 0xCEFE#16 }) [0x03#8, 0xC0#8])
    t.regs.pc = 0xC003#16 ∧ t.regs.sp = 0xCF00#16 ∧ t.cycles = 16 := by decide

theorem test_J17_retCc :
    let t := after (withStack (base [0xC8#8]
      fun r => { r with sp := 0xCEFE#16, f := fl 0x80#8 }) [0x03#8, 0xC0#8])
    t.regs.pc = 0xC003#16 ∧ t.regs.sp = 0xCF00#16 ∧ t.cycles = 20 := by decide

theorem test_J18_retCc_not :
    let t := after (withStack (base [0xC8#8]
      fun r => { r with sp := 0xCEFE#16, f := fl 0x00#8 }) [0x03#8, 0xC0#8])
    t.regs.pc = 0xC001#16 ∧ t.regs.sp = 0xCEFE#16 ∧ t.cycles = 8 := by decide

theorem test_J19_reti :
    let t := after (withStack (base [0xD9#8] fun r => { r with sp := 0xCEFE#16 }) [0x03#8, 0xC0#8])
    t.regs.pc = 0xC003#16 ∧ t.regs.sp = 0xCF00#16 ∧ t.ime = true ∧ t.cycles = 16 := by decide

theorem test_J20_rst :
    let t := after (base [0xEF#8] fun r => { r with sp := 0xCF00#16 })
    t.peek 0xCEFF#16 = 0xC0#8 ∧ t.peek 0xCEFE#16 = 0x01#8 ∧ t.regs.sp = 0xCEFE#16 ∧ t.regs.pc = 0x0028#16
    ∧ t.cycles = 16 := by decide

/-! Miscellaneous and system (45_misc_system.md) -/

theorem test_Y1_nop :
    let t := after (base [0x00#8])
    t.regs.pc = 0xC001#16 ∧ t.cycles = 4 ∧ t.regs.f = fl 0xB0#8 := by decide

theorem test_Y2_halt :
    let t := after (base [0x76#8])
    t.halted = true ∧ t.regs.pc = 0xC001#16 ∧ t.cycles = 4 ∧ t.totalI = 1 := by decide

theorem test_Y4_stop :
    let t := after ({ base [0x10#8, 0x00#8] with key1Prepare := true })
    t.key1Speed = true ∧ t.key1Prepare = false ∧ t.peek 0xFF4D#16 = 0x80#8 ∧ t.regs.pc = 0xC002#16
    ∧ t.cycles = 8 := by decide

theorem test_Y5_stop_not_armed :
    let t := after (base [0x10#8, 0x00#8])
    t.key1Speed = false ∧ t.halted = false ∧ t.regs.pc = 0xC002#16 ∧ t.cycles = 8 := by decide

theorem test_Y6_di :
    let t := after ({ base [0xF3#8] with ime := true })
    t.ime = false ∧ t.cycles = 4 := by decide

theorem test_Y7_ei :
    let t := after (base [0xFB#8])
    t.ime = false ∧ t.eiPending = true ∧ t.regs.pc = 0xC001#16 ∧ t.cycles = 4 := by decide

theorem test_Y8_di_after_ei :
    let t := after ({ base [0xF3#8] with eiPending := true })
    t.ime = false ∧ t.eiPending = false := by decide

theorem test_Y9_daa :
    let t := after (base [0x27#8] fun r => { r with a := 0x7D#8, f := fl 0x20#8 })
    t.regs.a = 0x83#8 ∧ t.regs.f = fl 0x00#8 := by decide

theorem test_Y14_daa_after_subtraction :
    let t := after (base [0x27#8] fun r => { r with a := 0x00#8, f := fl 0x70#8 })
    t.regs.a = 0x9A#8 ∧ t.regs.f = fl 0x50#8 := by decide

theorem test_Y19_cpl :
    let t := after (base [0x2F#8] fun r => { r with a := 0x35#8, f := fl 0x90#8 })
    t.regs.a = 0xCA#8 ∧ t.regs.f = fl 0xF0#8 := by decide

theorem test_Y20_scf :
    let t := after (base [0x37#8] fun r => { r with f := fl 0xE0#8 })
    t.regs.f = fl 0x90#8 := by decide

theorem test_Y21_ccf :
    let t := after (base [0x3F#8] fun r => { r with f := fl 0xF0#8 })
    t.regs.f = fl 0x80#8 := by decide

theorem test_Y23_rlca :
    let t := after (base [0x07#8] fun r => { r with a := 0x85#8, f := fl 0xE0#8 })
    t.regs.a = 0x0B#8 ∧ t.regs.f = fl 0x10#8 := by decide

theorem test_Y25_rla :
    let t := after (base [0x17#8] fun r => { r with a := 0x95#8, f := fl 0x10#8 })
    t.regs.a = 0x2B#8 ∧ t.regs.f = fl 0x10#8 := by decide

theorem test_Y27_rrca :
    let t := after (base [0x0F#8] fun r => { r with a := 0x3B#8, f := fl 0x00#8 })
    t.regs.a = 0x9D#8 ∧ t.regs.f = fl 0x10#8 := by decide

theorem test_Y28_rra :
    let t := after (base [0x1F#8] fun r => { r with a := 0x81#8, f := fl 0x00#8 })
    t.regs.a = 0x40#8 ∧ t.regs.f = fl 0x10#8 := by decide

theorem test_Y30_invalid :
    let t := after (base [0xD3#8])
    t.fault = some ⟨.invalidOpcode, 0xC000#16, 0xD3#8, none⟩ ∧ t.regs.pc = 0xC000#16 ∧ t.cycles = 4
    ∧ t.timerDebt = 4 ∧ t.totalI = 0 := by decide

/-! The CB page (46_cb_prefixed.md) -/

theorem test_B1_rlcR :
    let t := after (base [0xCB#8, 0x00#8] fun r => { r with b := 0x85#8, f := fl 0xE0#8 })
    t.regs.b = 0x0B#8 ∧ t.regs.f = fl 0x10#8 ∧ t.regs.pc = 0xC002#16 ∧ t.cycles = 8 := by decide

theorem test_B2_rlcHl :
    let t := after (withData (base [0xCB#8, 0x06#8]
      fun r => { r with h := 0xC1#8, l := 0x00#8, f := fl 0x10#8 }) [0x00#8])
    t.peek 0xC100#16 = 0x00#8 ∧ t.regs.f = fl 0x80#8 ∧ t.cycles = 16 := by decide

theorem test_B3_rrcR :
    let t := after (base [0xCB#8, 0x09#8] fun r => { r with c := 0x01#8, f := fl 0x00#8 })
    t.regs.c = 0x80#8 ∧ t.regs.f = fl 0x10#8 := by decide

theorem test_R354_rrcHl :
    let t := after (withData (base [0xCB#8, 0x0E#8]
      fun r => { r with h := 0xC1#8, l := 0x00#8, f := fl 0x00#8 }) [0x3B#8])
    t.peek 0xC100#16 = 0x9D#8 ∧ t.regs.f = fl 0x10#8 ∧ t.cycles = 16 := by decide

theorem test_B4_rlR :
    let t := after (base [0xCB#8, 0x12#8] fun r => { r with d := 0x80#8, f := fl 0x00#8 })
    t.regs.d = 0x00#8 ∧ t.regs.f = fl 0x90#8 := by decide

theorem test_B5_rlHl :
    let t := after (withData (base [0xCB#8, 0x16#8]
      fun r => { r with h := 0xC1#8, l := 0x00#8, f := fl 0x10#8 }) [0x11#8])
    t.peek 0xC100#16 = 0x23#8 ∧ t.regs.f = fl 0x00#8 ∧ t.cycles = 16 := by decide

theorem test_B6_rrR :
    let t := after (base [0xCB#8, 0x1B#8] fun r => { r with e := 0x01#8, f := fl 0x00#8 })
    t.regs.e = 0x00#8 ∧ t.regs.f = fl 0x90#8 := by decide

theorem test_R358_rrHl :
    let t := after (withData (base [0xCB#8, 0x1E#8]
      fun r => { r with h := 0xC1#8, l := 0x00#8, f := fl 0x10#8 }) [0x8A#8])
    t.peek 0xC100#16 = 0xC5#8 ∧ t.regs.f = fl 0x00#8 ∧ t.cycles = 16 := by decide

theorem test_B8_slaR :
    let t := after (base [0xCB#8, 0x24#8] fun r => { r with h := 0x80#8, f := fl 0x00#8 })
    t.regs.h = 0x00#8 ∧ t.regs.f = fl 0x90#8 := by decide

theorem test_B9_slaHl :
    let t := after (withData (base [0xCB#8, 0x26#8]
      fun r => { r with h := 0xC1#8, l := 0x00#8, f := fl 0x00#8 }) [0xFF#8])
    t.peek 0xC100#16 = 0xFE#8 ∧ t.regs.f = fl 0x10#8 ∧ t.cycles = 16 := by decide

theorem test_B10_sraR :
    let t := after (base [0xCB#8, 0x2D#8] fun r => { r with l := 0x8A#8, f := fl 0x00#8 })
    t.regs.l = 0xC5#8 ∧ t.regs.f = fl 0x00#8 := by decide

theorem test_R362_sraHl :
    let t := after (withData (base [0xCB#8, 0x2E#8]
      fun r => { r with h := 0xC1#8, l := 0x00#8, f := fl 0x00#8 }) [0x8A#8])
    t.peek 0xC100#16 = 0xC5#8 ∧ t.regs.f = fl 0x00#8 ∧ t.cycles = 16 := by decide

theorem test_B12_swapR :
    let t := after (base [0xCB#8, 0x37#8] fun r => { r with a := 0xF1#8, f := fl 0xF0#8 })
    t.regs.a = 0x1F#8 ∧ t.regs.f = fl 0x00#8 := by decide

theorem test_B13_swapHl :
    let t := after (withData (base [0xCB#8, 0x36#8]
      fun r => { r with h := 0xC1#8, l := 0x00#8, f := fl 0x70#8 }) [0x00#8])
    t.peek 0xC100#16 = 0x00#8 ∧ t.regs.f = fl 0x80#8 ∧ t.cycles = 16 := by decide

theorem test_B14_srlR :
    let t := after (base [0xCB#8, 0x38#8] fun r => { r with b := 0x01#8, f := fl 0x00#8 })
    t.regs.b = 0x00#8 ∧ t.regs.f = fl 0x90#8 := by decide

theorem test_B15_srlHl :
    let t := after (withData (base [0xCB#8, 0x3E#8]
      fun r => { r with h := 0xC1#8, l := 0x00#8, f := fl 0x00#8 }) [0xFF#8])
    t.peek 0xC100#16 = 0x7F#8 ∧ t.regs.f = fl 0x10#8 ∧ t.cycles = 16 := by decide

theorem test_B16_bitR :
    let t := after (base [0xCB#8, 0x7F#8] fun r => { r with a := 0x80#8, f := fl 0x50#8 })
    t.regs.a = 0x80#8 ∧ t.regs.f = fl 0x30#8 := by decide

theorem test_B18_bitHl :
    let t := after (withData (base [0xCB#8, 0x46#8]
      fun r => { r with h := 0xC1#8, l := 0x00#8, f := fl 0x10#8 }) [0xFE#8])
    t.regs.f = fl 0xB0#8 ∧ t.peek 0xC100#16 = 0xFE#8 ∧ t.cycles = 12 := by decide

theorem test_B20_resR :
    let t := after (base [0xCB#8, 0xBF#8] fun r => { r with a := 0x80#8, f := fl 0xF0#8 })
    t.regs.a = 0x00#8 ∧ t.regs.f = fl 0xF0#8 := by decide

theorem test_B21_resHl :
    let t := after (withData (base [0xCB#8, 0x8E#8] fun r => { r with h := 0xC1#8, l := 0x00#8 }) [0xFF#8])
    t.peek 0xC100#16 = 0xFD#8 ∧ t.cycles = 16 := by decide

theorem test_B22_setR :
    let t := after (base [0xCB#8, 0xDF#8] fun r => { r with a := 0x80#8 })
    t.regs.a = 0x88#8 ∧ t.regs.f = fl 0xB0#8 := by decide

theorem test_B23_setHl :
    let t := after (withData (base [0xCB#8, 0xFE#8] fun r => { r with h := 0xC1#8, l := 0x00#8 }) [0x00#8])
    t.peek 0xC100#16 = 0x80#8 ∧ t.cycles = 16 := by decide

/-! Interrupts and the Timer (60_exceptions.md) -/

theorem test_I1_dispatch :
    let t := after ({ base [0x00#8]
      fun r => { r with sp := 0xD000#16 } with ime := true, requested := 0x05#5, enabled := 0x05#5 })
    t.peek 0xCFFF#16 = 0xC0#8 ∧ t.peek 0xCFFE#16 = 0x01#8 ∧ t.regs.sp = 0xCFFE#16 ∧ t.regs.pc = 0x0040#16
    ∧ t.ime = false ∧ t.requested = 0x04#5 ∧ t.cycles = 24 ∧ t.timerDebt = 20 := by decide

theorem test_I2_priority :
    let t := after ({ base [0x00#8]
      fun r => { r with sp := 0xD000#16 } with ime := true, requested := 0x1F#5, enabled := 0x18#5 })
    t.regs.pc = 0x0058#16 ∧ t.requested = 0x17#5 := by decide

theorem test_I4_requested_but_not_enabled :
    let t := after ({ base [0x00#8] with ime := true, requested := 0x04#5 })
    t.regs.pc = 0xC001#16 ∧ t.requested = 0x04#5 := by decide

theorem test_I9_wake_without_dispatch :
    let t := after ({ base [0x76#8]
      fun r => { r with pc := 0xC001#16 } with halted := true, requested := 0x02#5 })
    t.halted = false ∧ t.regs.pc = 0xC001#16 ∧ t.cycles = 4 ∧ t.totalI = 0 := by decide

theorem test_T1_overflow_reloads :
    let t := after ({ base [0x00#8] with enabled := 0x04#5, timer := ⟨0x00#8, 0xFF#8, 0xAB#8, 1#2, true, 0, 12⟩ })
    t.timer.tima = 0xAB#8 ∧ t.timer.timaAcc = 0 ∧ t.requested = 0x04#5 := by decide

theorem test_T4_request_is_lost :
    let t := after ({ base [0x00#8] with timer := ⟨0x00#8, 0xFF#8, 0x10#8, 1#2, true, 0, 12⟩ })
    t.timer.tima = 0x10#8 ∧ t.requested = 0x00#5 := by decide

theorem test_T3_div_write_then_12_cycles :
    let t := after ({ base [0xE0#8, 0x04#8] with timer := ⟨0x00#8, 0x00#8, 0x00#8, 0#2, false, 252, 0⟩ })
    t.timer.div = 0x00#8 ∧ t.timer.divAcc = 12 ∧ t.cycles = 12 := by decide

/-! ### The bus and the controllers (20_memory.md), one write or read each -/

/-- Vector K1: the echo of work RAM. -/
theorem test_K1_echo : ((base [] ).busWrite 0xE123#16 0x34#8).map (fun t => t.peek 0xC123#16) = some 0x34#8 := by decide

/-- Vector K2: a write of 0 to the bank register selects bank 1. -/
theorem test_K2_svbk : ((base []).busWrite 0xFF70#16 0x00#8).map (fun t => t.peek 0xFF70#16) = some 0x01#8 := by decide

/-- Vector K4: without CGB the bank register is not there. -/
theorem test_K4_no_svbk : (State.reset.busWrite 0xFF70#16 0x03#8) = some State.reset
    ∧ State.reset.peek 0xFF70#16 = 0xFF#8 := by decide

/-- Vector K6: the upper bits of 0xFF0F read 0. -/
theorem test_K6_if : ((base []).busWrite 0xFF0F#16 0xFF#8).map (fun t => t.peek 0xFF0F#16) = some 0x1F#8 := by decide

/-- Vector T6: the upper bits of TAC read 0. -/
theorem test_T6_tac : ((base []).busWrite 0xFF07#16 0xFF#8).map (fun t => t.peek 0xFF07#16) = some 0x07#8 := by decide

/-- Vector M1, its first write, its fourth and its sixth. -/
theorem test_M1_mbc1 :
    ((Mbc.atReset .mbc1 8).write 0x2000 0x00#8).map Mbc.romBank = some 0#9
    ∧ ((Mbc.atReset .mbc1 8).write 0x3FFF 0x1D#8).map Mbc.romBank = some 5#9
    ∧ ((Mbc.atReset .mbc1 8).write 0x4000 0x01#8).map Mbc.romBank = some 1#9 := by decide

/-- Vector M3, its first and third writes. -/
theorem test_M3_mbc3 :
    ((Mbc.atReset .mbc3 8).write 0x2000 0x00#8).map Mbc.romBank = some 1#9
    ∧ ((Mbc.atReset .mbc3 8).write 0x2000 0x08#8).map Mbc.romBank = some 0#9 := by decide

/-- Vector M5, its second and third writes. -/
theorem test_M5_mbc5 :
    ((Mbc.atReset .mbc5 96).write 0x2000 0xFF#8).map Mbc.romBank = some 63#9
    ∧ (Mbc.write { Mbc.atReset .mbc5 96 with romBank := 63#9 } 0x3000 0x01#8).map Mbc.romBank = some 31#9 := by decide

/-- Vector M8: header bytes. -/
theorem test_M8_header : mbcKindOf 0x13#8 = .mbc3 ∧ romBanksOf 0x05#8 = 64 ∧ cgbOf 0xC0#8 = true
    ∧ mbcKindOf 0xFC#8 = .null ∧ romBanksOf 0x20#8 = 0 ∧ mbcKindOf 0x05#8 = .null := by decide

/-! ### Witnesses

For each statement with hypotheses, states and operands that meet them; where a clause has a range of addresses, the
ends of its range. -/

/-- A state with HL, BC and DE in work RAM, C naming the first byte of high RAM on the high page, and a stack. -/
def wit : State := base [] fun r =>
  { r with h := 0xC1#8, l := 0x00#8, b := 0xC2#8, c := 0x80#8, d := 0xC3#8, e := 0x00#8, sp := 0xD000#16 }

/-- `wit` with code at PC. -/
def witCode (code : List Byte) : State := { wit with wram := Memory.ofBytes none 0 code }

theorem wit_wf : wit.wf = true := by decide

theorem wit_canFetch : wit.canFetch := ⟨rfl, rfl, rfl⟩

theorem witness_DecodeOfEncode : Instr.wellFormed (.ldA16Sp 0xC100#16) = true := by decide

theorem witness_EncodeOfDecode : decode [0xCB#8, 0x7E#8, 0x00#8] = .ok (.bitHl 7#3, [0x00#8]) := rfl

theorem witness_LengthTable : 0x40 ≤ (0x40#8 : Byte).toNat ∧ (0xBF#8 : Byte).toNat < 0xC0
    ∧ (∃ r, r ∈ lengthRows ∧ r.1 = 0xF) := by decide

theorem witness_InvalidOpcodes : (0xD3#8, Instr.invalidD3) ∈ invalidRows ∧ (witCode [0xD3#8]).canFetch
    ∧ (witCode [0xD3#8]).takeArrivals = witCode [0xD3#8] ∧ (witCode [0xD3#8]).peek wit.regs.pc = 0xD3#8 :=
  ⟨by decide, ⟨rfl, rfl, rfl⟩, rfl, by decide⟩

/-- A state in which collaborators act before the step: the state that the statements about `step` look at. -/
theorem witness_takeArrivals :
    let s : State := { wit with enabled := 0b10001#5, arrivals := [[.vblank, .serial], [.joypad]] }
    s.takeArrivals.canFetch ∧ s.takeArrivals.requested = 0b00001#5 ∧ s.takeArrivals.arrivals = [[.joypad]] :=
  ⟨⟨rfl, rfl, rfl⟩, by decide, by decide⟩

/-- A three-byte instruction, its bytes at PC, PC + 1 and PC + 2. -/
theorem witness_StepRunsDecoded_run :
    let s := witCode [0xC3#8, 0x50#8, 0x01#8]
    (Instr.jpA16 0x0150#16).wellFormed = true ∧ s.canFetch ∧ s.takeArrivals = s
    ∧ encode (.jpA16 0x0150#16) = [0xC3#8, 0x50#8, 0x01#8]
    ∧ s.answer s.regs.pc = .byte 0xC3#8 ∧ s.answer (s.regs.pc + 1#16) = .byte 0x50#8
    ∧ s.answer (s.regs.pc + 2#16) = .byte 0x01#8
    ∧ ∃ t, exec (.jpA16 0x0150#16) (s.activateEi.fetched (.jpA16 0x0150#16)) = .next t :=
  ⟨by decide, ⟨rfl, rfl, rfl⟩, rfl, by decide, by decide, by decide, by decide, _, rfl⟩

/-- Each length that a fetch can have. -/
theorem witness_StepRunsDecoded_fetch :
    [0x00#8, 0x3E#8, 0xC3#8].map (fun op => lengthOf ((witCode [op]).memRead wit.regs.pc).1) = [1, 2, 3] := by decide

/-- A raised state, a waking one and one that does not wake. -/
theorem witness_StepRunsDecoded_ends :
    (after (witCode [0xD3#8])).fault ≠ none ∧ wit.fault = none
    ∧ (State.halted { wit with halted := true, requested := 1#5 } = true
      ∧ State.requested { wit with halted := true, requested := 1#5 } ≠ 0#5)
    ∧ wit.halted = false ∧ wit.requested = 0#5 := by decide

theorem witness_StepsThatExecuteNothing :
    State.fault { wit with fault := some ⟨.invalidOpcode, 0xC000#16, 0xD3#8, none⟩ }
      = some ⟨.invalidOpcode, 0xC000#16, 0xD3#8, none⟩
    ∧ (wit.fault = none ∧ wit.takeArrivals = wit
      ∧ wit.regs.pc ∈ State.breakpoints { wit with breakpoints := [0xC000#16] }) := by decide

/-- `ByteStores`: every address form is accepted, on a well-formed state, and stores to a cell that is shown. -/
theorem witness_ByteStores (v : Byte) :
    wit.wf = true ∧ (∃ u, wit.busWrite wit.regs.hl v = some u) ∧ (∃ u, wit.busWrite wit.regs.bc v = some u)
    ∧ (∃ u, wit.busWrite wit.regs.de v = some u) ∧ (∃ u, wit.busWrite (page 0x80#8) v = some u)
    ∧ (∃ u, wit.busWrite (page wit.regs.c) v = some u) ∧ (∃ u, wit.busWrite 0xC234#16 v = some u)
    ∧ wit.storedCell wit.regs.hl = some (.wram 0x100) ∧ wit.shownCell wit.regs.hl = some (.wram 0x100)
    ∧ wit.storedCell (page wit.regs.c) = some (.hram 0) ∧ wit.cheats.get? wit.regs.hl.toNat = none :=
  ⟨wit_wf, ⟨_, rfl⟩, ⟨_, rfl⟩, ⟨_, rfl⟩, ⟨_, rfl⟩, ⟨_, rfl⟩, ⟨_, rfl⟩, by decide,
    by decide, by decide, by decide⟩

/-- `IncDec`, `RotateMemory`, `BitInstructions`: the byte at HL is read and written whatever is written. -/
theorem witness_updates (g : Byte → Byte) :
    ∃ u, wit.busWrite wit.regs.hl (g (wit.peek wit.regs.hl)) = some u := ⟨_, rfl⟩

/-- `WordLoads`: both bytes of LD (a16),SP, in work RAM and where the second address wraps. -/
theorem witness_WordLoads (v w : Byte) :
    (∃ u1 u2, wit.busWrite 0xC100#16 v = some u1 ∧ u1.busWrite (0xC100#16 + 1#16) w = some u2)
    ∧ ∃ u1 u2, wit.busWrite 0xFFFF#16 v = some u1 ∧ u1.busWrite (0xFFFF#16 + 1#16) w = some u2 :=
  ⟨⟨_, _, rfl, rfl⟩, _, _, rfl, rfl⟩

/-- `Pushes` and `Calls`: both bytes of the stack slot, whatever is pushed. -/
theorem witness_pushes (v w : Byte) : ∃ u1 u2, wit.busWrite (wit.regs.sp - 1#16) v = some u1
    ∧ u1.busWrite (wit.regs.sp - 2#16) w = some u2 := ⟨_, _, rfl, rfl⟩

theorem witness_PushThenPop : wit.wf = true ∧ wit.cheats = []
    ∧ wit.storedCell (wit.regs.sp - 1#16) = some (.wram 0xFFF)
    ∧ wit.storedCell (wit.regs.sp - 2#16) = some (.wram 0xFFE)
    ∧ (Cell.wram 0xFFF ≠ .wram 0xFFE) := by decide

/-- `Jumps`, `Calls`, `Returns`: every condition holds somewhere and fails somewhere. -/
theorem witness_conditions :
    (condTrue (fl 0x00#8) .nz ∧ ¬ condTrue (fl 0x80#8) .nz)
    ∧ (condTrue (fl 0x80#8) .z ∧ ¬ condTrue (fl 0x00#8) .z)
    ∧ (condTrue (fl 0x00#8) .nc ∧ ¬ condTrue (fl 0x10#8) .nc)
    ∧ (condTrue (fl 0x10#8) .c ∧ ¬ condTrue (fl 0x00#8) .c) := by
  simp only [condTrue]
  decide

theorem witness_SystemInstructions : (wit.cgb = true ∧ State.key1Prepare { wit with key1Prepare := true } = true)
    ∧ State.reset.cgb = false ∧ wit.key1Prepare = false := by decide

theorem witness_DaaIsDecimal : ∃ s : State, s.regs.a = bcd 99 ∧ (99 < 100 ∧ 1 < 100) :=
  ⟨base [] fun r => { r with a := 0x99#8 }, by decide⟩

/-- `ExecFrame`: instructions on either side of each of its conditions. -/
theorem witness_ExecFrame : writesFlags .nop = false ∧ mayStore .nop = false
    ∧ (∀ b, (b, Instr.nop) ∉ invalidRows) ∧ (∀ n, Instr.nop ≠ .stop n) ∧ Instr.nop ≠ .di ∧ Instr.nop ≠ .halt :=
  ⟨rfl, rfl, by simp [invalidRows], by simp, by simp, by simp⟩

/-- `BankCountZeroRaises`: a first byte that selects a bank of an MBC1 with no banks, and a second byte that does after
a first one that is accepted. -/
theorem witness_BankCountZeroRaises :
    let s : State := { wit with mbc := { Mbc.atReset .mbc1 0 with mode := true } }
    let r : State := s.setRegs { s.regs with h := 0x20#8, sp := 0x4001#16 }
    (firstStore r (.ldHlR .a) = some (0x2000#16, 0x11#8) ∧ r.busWrite 0x2000#16 0x11#8 = none)
    ∧ firstStore r (.pushRr .bc) = some (0x4000#16, 0xC2#8) ∧ secondStore r (.pushRr .bc) = some (0x3FFF#16, 0x80#8)
    ∧ ∃ u, r.busWrite 0x4000#16 0xC2#8 = some u ∧ u.busWrite 0x3FFF#16 0x80#8 = none :=
  ⟨by decide, by decide, by decide, _, rfl, by decide⟩

/-- A state with a boot image that is shown, whose bytes 0 and 0xFF are listed. -/
def witBoot : State := { wit with boot := some [(0, 0x31#8), (0xFF, 0x50#8)], bootEnabled := true }

/-- A state with a controller that has 4 banks, the last one in the window, and some ROM bytes. -/
def witRom : State :=
  { wit with
    mbc := { Mbc.atReset .mbc5 4 with romBank := 3#9 }
    rom := [(0, 0x0A#8), (0x3FFF, 0x0B#8), (0xC000, 0x0C#8), (0xFFFF, 0x0D#8)] }

/-- `ReadMap`: the ends of the ranges below 0xA000, by their values. -/
theorem witness_ReadMap_rom :
    State.answer { wit with cheats := [(0x0000, 0x77#8)] } 0x0000#16 = .byte 0x77#8
    ∧ witBoot.answer 0x0000#16 = .byte 0x31#8 ∧ witBoot.answer 0x00FF#16 = .byte 0x50#8
    ∧ witBoot.answer 0x0100#16 = .byte 0x00#8
    ∧ witRom.answer 0x0000#16 = .byte 0x0A#8 ∧ witRom.answer 0x3FFF#16 = .byte 0x0B#8
    ∧ witRom.answer 0x4000#16 = .byte 0x0C#8 ∧ witRom.answer 0x7FFF#16 = .byte 0x0D#8
    ∧ witRom.answer 0x8000#16 = .collab .gpuVram 0x8000#16 ∧ witRom.answer 0x9FFF#16 = .collab .gpuVram 0x9FFF#16 := by
  decide

/-- `ReadMap`: the ends of the ranges from 0xC000 on. -/
theorem witness_ReadMap_ram :
    let s := { wit with wram := [(0, 1#8), (0xFFF, 2#8), (0x1000, 3#8), (0x1FFF, 4#8)], hram := [(0, 5#8), (126, 6#8)] }
    State.answer s 0xC000#16 = .byte 1#8 ∧ State.answer s 0xCFFF#16 = .byte 2#8 ∧ State.answer s 0xD000#16 = .byte 3#8
    ∧ State.answer s 0xDFFF#16 = .byte 4#8 ∧ State.answer s 0xFE00#16 = .collab .gpuOam 0xFE00#16
    ∧ State.answer s 0xFE9F#16 = .collab .gpuOam 0xFE9F#16 ∧ State.answer s 0xFEA0#16 = .byte 0xFF#8
    ∧ State.answer s 0xFEFF#16 = .byte 0xFF#8 ∧ State.answer s 0xFF80#16 = .byte 5#8
    ∧ State.answer s 0xFFFE#16 = .byte 6#8 := by decide

/-- `HwioReads`: the ends of its ranges; 0xFF4D and 0xFF70 with CGB and without. -/
theorem witness_HwioReads :
    ([0xFF10#16, 0xFF3F#16, 0xFF76#16, 0xFF77#16].all fun a => decide (wit.answer a = .collab .sound a)) = true
    ∧ ([0xFF40#16, 0xFF4C#16, 0xFF4E#16, 0xFF4F#16, 0xFF51#16, 0xFF55#16, 0xFF68#16, 0xFF6C#16].all fun a =>
        decide (wit.answer a = .collab .gpuHwio a)) = true
    ∧ ([0xFF03#16, 0xFF08#16, 0xFF0E#16, 0xFF50#16, 0xFF56#16, 0xFF67#16, 0xFF6D#16, 0xFF6F#16, 0xFF71#16, 0xFF75#16,
        0xFF78#16, 0xFF7F#16].all fun a => decide (wit.answer a = .byte 0xFF#8)) = true
    ∧ wit.answer 0xFF4D#16 = .byte 0x00#8 ∧ State.reset.answer 0xFF4D#16 = .collab .gpuHwio 0xFF4D#16
    ∧ wit.answer 0xFF70#16 = .byte 0x01#8 ∧ State.reset.answer 0xFF70#16 = .byte 0xFF#8
    ∧ wit.answer 0xFF00#16 = .collab .joypad 0xFF00#16 ∧ wit.answer 0xFF02#16 = .collab .serial 0xFF02#16
    ∧ wit.answer 0xFFFF#16 = .byte 0x00#8 := by decide

/-- `RegisterWrites`: the ends of the ranges that are written to no effect. -/
theorem witness_RegisterWrites :
    ([0x8000#16, 0x9FFF#16, 0xFE00#16, 0xFEA0#16, 0xFF03#16, 0xFF08#16, 0xFF0E#16, 0xFF10#16, 0xFF4C#16, 0xFF4D#16,
      0xFF4E#16, 0xFF4F#16, 0xFF51#16, 0xFF6F#16, 0xFF70#16, 0xFF71#16, 0xFF7F#16].all fun a =>
        decide (State.reset.busWrite a 0x03#8 = some State.reset)) = true
    ∧ (wit.busWrite 0xFF70#16 0x0A#8).map State.wramBank = some 2#3
    ∧ (witBoot.busWrite 0xFF50#16 0x01#8).map State.bootEnabled = some false
    ∧ (witBoot.busWrite 0xFF50#16 0xFE#8) = some witBoot := by decide

/-- `EchoIsWorkRam`, `StoredCells`: the ends of the ranges. -/
theorem witness_StoredCells :
    [0xC000#16, 0xCFFF#16, 0xD000#16, 0xDFFF#16, 0xE000#16, 0xEFFF#16, 0xF000#16, 0xFDFF#16].map wit.storedCell
      = [some (.wram 0), some (.wram 0xFFF), some (.wram 0x1000), some (.wram 0x1FFF), some (.wram 0),
         some (.wram 0xFFF), some (.wram 0x1000), some (.wram 0x1DFF)]
    ∧ [0xFF80#16, 0xFFFE#16].map wit.storedCell = [some (.hram 0), some (.hram 126)]
    ∧ [0x0000#16, 0x9FFF#16, 0xFE00#16, 0xFF7F#16, 0xFFFF#16].map wit.storedCell = [none, none, none, none, none] := by
  decide

theorem witness_WriteThenRead : wit.wf = true ∧ wit.storedCell 0xD000#16 = some (.wram 0x1000)
    ∧ wit.cheats.get? (0xD000#16 : Word).toNat = none := by decide

theorem witness_RomWritesAreCommands :
    (∃ u, witRom.busWrite 0x2000#16 0x01#8 = some u) ∧ (0x2000#16 : Word).toNat < 0x8000
    ∧ State.busWrite { wit with mbc := Mbc.atReset .mbc5 0 } 0x2000#16 0x01#8 = none
    ∧ (Mbc.atReset .mbc5 0).romBanks = 0 ∧ reducesBank (Mbc.atReset .mbc5 0) 0x2000 :=
  ⟨⟨_, rfl⟩, by decide, by decide, rfl, by simp [reducesBank, Mbc.atReset]⟩

/-- `Mbc1Registers`: the ends of its five ranges. -/
theorem witness_Mbc1Registers :
    let m := Mbc.atReset .mbc1 8
    let banked := { m with mode := true }
    m.kind = .mbc1 ∧ m.romBanks ≠ 0 ∧ m.romBanks ≤ 512
    ∧ (m.write 0x1FFF 0x1A#8).map Mbc.ramEnable = some true ∧ (m.write 0x3FFF 0x07#8).map Mbc.romBank = some 7#9
    ∧ (m.write 0x5FFF 0x01#8).map Mbc.romBank = some 1#9 ∧ (Mbc.write banked 0x4000 0x07#8).map Mbc.ramBank = some 3#8
    ∧ (m.write 0x6000 0x01#8).map Mbc.mode = some true ∧ (Mbc.write banked 0x7FFF 0x02#8).map Mbc.mode = some false := by
  decide

/-- `Mbc1Registers`, `OtherControllers`: with a bank count of 0, the writes that select no ROM bank. -/
theorem witness_registers_without_banks :
    ((Mbc.atReset .mbc1 0).write 0x1FFF 0x0A#8).map Mbc.ramEnable = some true
    ∧ ((Mbc.atReset .mbc1 0).write 0x7FFF 0x01#8).map Mbc.mode = some true
    ∧ ((Mbc.atReset .mbc3 0).write 0x4000 0x03#8).map Mbc.ramBank = some 3#8
    ∧ ((Mbc.atReset .mbc5 0).write 0x5FFF 0x13#8).map Mbc.ramBank = some 3#8
    ∧ (Mbc.atReset .null 0).write 0x2000 0x01#8 = some (Mbc.atReset .null 0) := by decide

/-- `OtherControllers`: the ends of their ranges. -/
theorem witness_OtherControllers :
    let m3 := Mbc.atReset .mbc3 512
    let m5 := Mbc.atReset .mbc5 512
    m3.romBanks ≠ 0 ∧ m3.romBanks ≤ 512 ∧ (Mbc.atReset .null 2).write 0x7FFF 0x01#8 = some (Mbc.atReset .null 2)
    ∧ (m3.write 0x1FFF 0x0A#8).map Mbc.ramEnable = some true ∧ (m3.write 0x3FFF 0xFF#8).map Mbc.romBank = some 255#9
    ∧ (m3.write 0x4000 0x08#8).map Mbc.rtcSelect = some true ∧ (m3.write 0x5FFF 0x07#8).map Mbc.rtcSelect = some false
    ∧ m3.write 0x6000 0x01#8 = some m3
    ∧ (m5.write 0x0000 0x1A#8).map Mbc.ramEnable = some false ∧ (m5.write 0x2FFF 0xFF#8).map Mbc.romBank = some 255#9
    ∧ (m5.write 0x3FFF 0x03#8).map Mbc.romBank = some 257#9 ∧ (m5.write 0x5FFF 0xFF#8).map Mbc.ramBank = some 15#8
    ∧ m5.write 0x7FFF 0x01#8 = some m5 := by decide

theorem witness_ModuloLaw : (Mbc.atReset .mbc1 8).romBanks > 0
    ∧ (Mbc.atReset .mbc1 8).romBank.toNat < (Mbc.atReset .mbc1 8).romBanks := by decide

/-- `ExternalRam`: the four cases, at both ends of the window. -/
theorem witness_ExternalRam :
    let ram : State := { wit with mbc := { Mbc.atReset .mbc5 8 with ramEnable := true, ramBank := 15#8 } }
    let clock : State :=
      { wit with mbc := { Mbc.atReset .mbc3 8 with ramEnable := true, ramBank := 8#8, rtcSelect := true } }
    wit.mapAnswer 0xA000#16 = .byte 0x00#8 ∧ wit.mapAnswer 0xBFFF#16 = .byte 0x00#8
    ∧ State.mapAnswer { wit with mbc := Mbc.atReset .mbc1 8 } 0xA000#16 = .byte 0xFF#8
    ∧ ram.wf = true ∧ ram.storedCell 0xA000#16 = some (.eram 0x1E000) ∧ ram.storedCell 0xBFFF#16 = some (.eram 0x1FFFF)
    ∧ clock.mapAnswer 0xA000#16 = .clock 8#8 := by decide

/-- `AttemptIsMasked`: each source enabled and not, and an arrival. -/
theorem witness_AttemptIsMasked :
    ([Source.vblank, .lcdStat, .timer, .serial, .joypad].all fun i =>
      State.enabled { wit with enabled := 0b11111#5 } |>.getLsbD i.index) = true
    ∧ wit.enabled.getLsbD Source.joypad.index = false
    ∧ State.arrivals { wit with arrivals := [[.vblank, .joypad], []] } = [.vblank, .joypad] :: [[]]
    ∧ wit.arrivals = [] := by decide

/-- `Dispatch`: each source can be the lowest pending one, and both bytes of PC are accepted on the stack. -/
theorem witness_Dispatch (v w : Byte) :
    ([(Source.vblank, 0b11111#5), (.lcdStat, 0b11110#5), (.timer, 0b11100#5), (.serial, 0b11000#5),
      (.joypad, 0b10000#5)].all fun p => p.2.getLsbD p.1.index
        && ([Source.vblank, .lcdStat, .timer, .serial, .joypad].all fun j =>
          decide (j.index < p.1.index → p.2.getLsbD j.index = false))) = true
    ∧ ∃ u1 u2, State.busWrite { wit with ime := false } (wit.regs.sp - 1#16) v = some u1
      ∧ u1.busWrite (wit.regs.sp - 2#16) w = some u2 := ⟨by decide, _, _, rfl, rfl⟩

/-- `Dispatch`, its other clauses: no dispatch by either condition, and a dispatch. -/
theorem witness_Dispatch_conditions : wit.ime = false ∧ wit.requested &&& wit.enabled = 0#5
    ∧ (let s : State := { wit with ime := true, requested := 0b00110#5, enabled := 0b00100#5 }
       s.ime = true ∧ s.requested &&& s.enabled ≠ 0#5) := by decide

/-- `Dispatch`, a push that the bus does not accept: the first byte, and the second after the first. -/
theorem witness_Dispatch_raises :
    let s : State :=
      { wit with ime := true, requested := 1#5, enabled := 1#5, mbc := Mbc.atReset .mbc5 0 }
    let first : State := s.setSp 0x2001#16
    let second : State := s.setSp 0x4001#16
    (s.requested &&& s.enabled).getLsbD Source.vblank.index = true
    ∧ State.busWrite { first with ime := false, requested := 0#5 } (first.regs.sp - 1#16) 0xC0#8 = none
    ∧ ((State.busWrite { second with ime := false, requested := 0#5 } (second.regs.sp - 1#16) 0xC0#8).bind
        fun u => u.busWrite (second.regs.sp - 2#16) 0x00#8) = none
    ∧ (State.busWrite { second with ime := false, requested := 0#5 } (second.regs.sp - 1#16) 0xC0#8).isSome = true := by
  decide

/-- A push of dispatch that selects a bank of 0 banks (60_exceptions.md R400): the PC being pushed, opcode 0x00, the
address and the value; PC is not advanced (R401). -/
theorem test_dispatch_raises :
    let s : State :=
      State.setSp { wit with ime := true, requested := 1#5, enabled := 1#5, mbc := Mbc.atReset .mbc5 0 } 0x2001#16
    s.service.fault = some ⟨.bankCountZero, 0xC000#16, 0x00#8, some (0x2000#16, 0xC0#8)⟩
    ∧ s.service.regs.pc = 0xC000#16 ∧ s.service.ime = false := by decide

/-- Dispatch changes IME, one request, SP and PC (60_exceptions.md R416): a pending EI stays pending. -/
theorem test_dispatch_keeps_ei :
    let s : State := { wit with ime := true, eiPending := true, requested := 1#5, enabled := 1#5 }
    s.service.eiPending = true ∧ s.service.ime = false ∧ s.service.regs.pc = 0x0040#16 := by decide

theorem witness_EiDelay : (witCode [0xFB#8]).canFetch ∧ (witCode [0xFB#8]).takeArrivals = witCode [0xFB#8]
    ∧ (witCode [0xFB#8]).peek (witCode [0xFB#8]).regs.pc = 0xFB#8 ∧ (witCode [0xFB#8]).ime = false
    ∧ (witCode [0xFB#8]).eiPending = false ∧ State.eiPending { wit with eiPending := true } = true :=
  ⟨⟨rfl, rfl, rfl⟩, rfl, by decide, rfl, rfl, rfl⟩

/-- `HaltedStep`: a sleeping state, one that a request without an enable wakes, one that wakes and dispatches, and one
whose running Timer overflows in the step. -/
theorem witness_HaltedStep :
    let s : State := { wit with halted := true }
    let r : State := { wit with halted := true, requested := 0b00010#5 }
    let d : State := { r with enabled := 0b00010#5, eiPending := true }
    let o : State := { s with
      enabled := 0b00100#5
      timer := { s.timer with running := true, speed := 1#2, tima := 0xFF#8, timaAcc := 12 } }
    (s.fault = none ∧ s.halted = true ∧ s.breakpoints.contains s.regs.pc = false ∧ s.takeArrivals = s
      ∧ s.requested = 0#5 ∧ s.timer.running = false)
    ∧ (r.requested ≠ 0#5 ∧ r.ime = false ∧ r.eiPending = false)
    ∧ (d.eiPending = true ∧ d.requested &&& d.enabled ≠ 0#5)
    ∧ (o.requested = 0#5 ∧ (State.timerAdvance (o.activateEi.spend 4) (o.timerDebt + 4)).requested ≠ 0#5) := by decide

/-- R432 (b), (a), (c): a wake without a dispatch, a wake and a dispatch in one step, and a wake by the Timer's overflow
in the step itself. -/
theorem test_halted_combined_cases :
    let r : State := { wit with halted := true, requested := 0b00010#5 }
    let d : State := { r with enabled := 0b00010#5, ime := true }
    let o : State := { wit with
      halted := true
      ime := true
      enabled := 0b00100#5
      timer := { wit.timer with running := true, speed := 1#2, tima := 0xFF#8, timaAcc := 12 } }
    (after r).halted = false ∧ (after r).regs.pc = 0xC000#16 ∧ (after d).halted = false
    ∧ (after d).regs.pc = 0x0048#16 ∧ (after o).halted = false ∧ (after o).regs.pc = 0x0050#16 := by decide

/-- 20_memory.md R128: a plain reset does not clear the count of dirty bytes; an insertion and a flush do. -/
theorem test_dirty_is_cleared_by :
    let s : State := { wit with mbc := { Mbc.atReset .mbc1 2 with dirty := 2, romBank := 0#9 } }
    s.resetOp.mbc.dirty = 2 ∧ s.resetOp.mbc.romBank = 1#9 ∧ s.flushSram.2.mbc.dirty = 0
    ∧ (s.insertCartridge [] none).map (fun t => t.mbc.dirty) = some 0 := by decide

theorem witness_ResetOperation : wit.boot.isSome = false ∧ witBoot.boot.isSome = true := by decide

/-- `InsertCartridge`: an image that is accepted, with no persisted image, with one and a controller, and with one and
none; one byte too many is refused. -/
theorem witness_InsertCartridge (n : Nat) (h : n ≤ 4194304) (k : Nat) (hk : k > 4194304) :
    (List.replicate n (0#8 : Byte)).length ≤ 4194304 ∧ (List.replicate k (0#8 : Byte)).length > 4194304
    ∧ mbcKindOf (List.getD (List.replicate 0x148 (3#8 : Byte)) 0x147 0#8) = .mbc1
    ∧ mbcKindOf (List.getD ([] : List Byte) 0x147 0#8) = .null :=
  ⟨by rw [List.length_replicate]; exact h, by rw [List.length_replicate]; exact hk, rfl, rfl⟩

theorem witness_RemoveAndFlush : wit.mbc.dirty = 0
    ∧ State.mbc { wit with mbc := { wit.mbc with dirty := 1 } } ≠ wit.mbc := by decide

/-- `StepKeepsWf`, `StepKeepsParameters`, `StepCycles`, `CountersAreInvisible`. -/
theorem witness_StepKeepsWf : (witCode [0x00#8]).wf = true ∧ (witCode [0x00#8]).bootEnabled = false
    ∧ ∃ t, step (witCode [0x00#8]) = .next t := ⟨by decide, rfl, _, rfl⟩

/-- `DebugSets`, `HostOpsKeepWf`. -/
theorem witness_HostOps : wit.wf = true ∧ (0xC000#16 : Word) ≠ 0xC001#16
    ∧ ∃ t, wit.insertCartridge [] none = some t := ⟨by decide, by decide, _, rfl⟩

end Sys2Proof.Tests
end

/-! PROOFS. What no instruction and no step changes (00_scope.md R7, 20_memory.md R64, R91), and the masking of requests
at the source (60_exceptions.md R412, R461). -/

namespace Sys2Proof.Machine

open Sys2Proof.Claims

/-! ### Views of the state

A frame is stated as the equality of a view before and after. -/

/-- The parameters of 00_scope.md R7 with the images and the debug sets: what a host operation alone changes. -/
structure Parameters where
  rom : Memory
  boot : Option Memory
  kind : MbcKind
  romBanks : Nat
  cgb : Bool
  title : List Byte
  cheats : Memory
  breakpoints : List Word

def State.parameters (s : State) : Parameters where
  rom := s.rom
  boot := s.boot
  kind := s.mbc.kind
  romBanks := s.mbc.romBanks
  cgb := s.cgb
  title := s.title
  cheats := s.cheats
  breakpoints := s.breakpoints

/-- What no bus write reaches, but for the registers, the cycles and the fault record. -/
structure Unreached extends Parameters where
  ime : Bool
  eiPending : Bool
  halted : Bool
  key1Speed : Bool
  totalI : Nat
  arrivals : List (List Attempt)
  stopped : Bool

def State.unreached (s : State) : Unreached where
  toParameters := s.parameters
  ime := s.ime
  eiPending := s.eiPending
  halted := s.halted
  key1Speed := s.key1Speed
  totalI := s.totalI
  arrivals := s.arrivals
  stopped := s.stopped

/-- The state with its registers, cycles and draws blanked: what remains is what an instruction without stores leaves
alone, unless it is a system instruction. -/
def State.quiet (s : State) : State := { s with regs := Regs.zero, cycles := 0, timerDebt := 0, draws := 0 }

/-- The quiet state with the fields of the system instructions blanked too. -/
def State.plain (s : State) : State :=
  { s.quiet with
    ime := false, eiPending := false, halted := false, fault := none, key1Speed := false, key1Prepare := false }

theorem State.parameters_iff {s t : State} : t.parameters = s.parameters ↔
    t.rom = s.rom ∧ t.boot = s.boot ∧ t.mbc.kind = s.mbc.kind ∧ t.mbc.romBanks = s.mbc.romBanks ∧ t.cgb = s.cgb
    ∧ t.title = s.title ∧ t.cheats = s.cheats ∧ t.breakpoints = s.breakpoints := by
  simp [State.parameters]

theorem State.unreached_iff {s t : State} : t.unreached = s.unreached ↔
    t.parameters = s.parameters ∧ t.ime = s.ime ∧ t.eiPending = s.eiPending ∧ t.halted = s.halted
    ∧ t.key1Speed = s.key1Speed ∧ t.totalI = s.totalI ∧ t.arrivals = s.arrivals ∧ t.stopped = s.stopped := by
  simp [State.unreached]

@[simp] theorem State.quiet_setRegs (s : State) (r : Regs) : (s.setRegs r).quiet = s.quiet := rfl
@[simp] theorem State.quiet_spend (s : State) (n : Nat) : (s.spend n).quiet = s.quiet := rfl
@[simp] theorem State.quiet_drew (s : State) (n : Nat) : (s.drew n).quiet = s.quiet := rfl

theorem State.plain_of_quiet {s t : State} (h : t.quiet = s.quiet) : t.plain = s.plain :=
  congrArg (fun u => u.plain) h

theorem State.unreached_of_quiet {s t : State} (h : t.quiet = s.quiet) : t.unreached = s.unreached :=
  congrArg (fun u => u.unreached) h

theorem State.parameters_of_plain {s t : State} (h : t.plain = s.plain) : t.parameters = s.parameters :=
  congrArg (fun u => u.parameters) h

theorem State.readCell_of_plain {s t : State} (h : t.plain = s.plain) (c : Cell) : t.readCell c = s.readCell c :=
  congrArg (fun u => u.readCell c) h

/-- Of the system instructions' fields, a read answers by KEY1 alone (20_memory.md R93). -/
theorem State.sameMemory_of_plain {s t : State} (h : t.plain = s.plain) (hspeed : t.key1Speed = s.key1Speed)
    (hprepare : t.key1Prepare = s.key1Prepare) : s.sameMemory t := by
  intro a
  have blank : ∀ u : State, u.answer a
      = State.answer { u.plain with key1Speed := u.key1Speed, key1Prepare := u.key1Prepare } a := fun _ => rfl
  rw [blank t, blank s, h, hspeed, hprepare]

/-! ### What a course of stores changes -/

/-- The parameters are kept, and the boot overlay does not come back (20_memory.md R91). -/
structure State.KeepsSetup (s t : State) : Prop where
  parameters : t.parameters = s.parameters
  latch : s.bootEnabled = false → t.bootEnabled = false

/-- What any course of stores keeps, raised or not. -/
structure State.Stored (s t : State) : Prop where
  unreached : t.unreached = s.unreached
  latch : s.bootEnabled = false → t.bootEnabled = false

/-- What a course of stores that writes no flag keeps. -/
structure State.StoredOnly (s t : State) : Prop extends State.Stored s t where
  flags : t.regs.f = s.regs.f

theorem State.KeepsSetup.refl (s : State) : s.KeepsSetup s := ⟨rfl, id⟩

theorem State.KeepsSetup.trans {s t u : State} (h : s.KeepsSetup t) (h' : t.KeepsSetup u) : s.KeepsSetup u :=
  ⟨h'.parameters.trans h.parameters, h'.latch ∘ h.latch⟩

theorem State.keepsSetup_of_plain {s t : State} (h : t.plain = s.plain) : s.KeepsSetup t :=
  ⟨State.parameters_of_plain h, fun hb => (congrArg (fun u => u.bootEnabled) h).trans hb⟩

theorem State.Stored.keepsSetup {s t : State} (h : s.Stored t) : s.KeepsSetup t :=
  ⟨congrArg (fun u => u.toParameters) h.unreached, h.latch⟩

theorem State.Stored.trans {s t u : State} (h : s.Stored t) (h' : t.Stored u) : s.Stored u :=
  ⟨h'.unreached.trans h.unreached, h'.latch ∘ h.latch⟩

theorem State.stored_of_quiet {s t : State} (h : t.quiet = s.quiet) : s.Stored t :=
  ⟨State.unreached_of_quiet h, fun hb => (congrArg (fun u => u.bootEnabled) h).trans hb⟩

@[simp] theorem State.writeCell_bootEnabled (s : State) (c : Cell) (v : Byte) :
    (s.writeCell c v).bootEnabled = s.bootEnabled := by cases c <;> rfl

/-- The one write to the boot latch turns the overlay off. -/
theorem State.busWrite_latch {s u : State} {a : Word} {v : Byte} (h : s.busWrite a v = some u)
    (hb : s.bootEnabled = false) : u.bootEnabled = false := by
  rcases State.busWrite_cases h with rfl | ⟨m, -, -, rfl⟩ | ⟨off, -, rfl⟩ | ⟨c, -, -, rfl⟩ | ⟨t, -, rfl⟩ | rfl | rfl |
    rfl | rfl | rfl <;> simp [State.writeEram, hb]

theorem State.stored_busWrite {s u : State} {a : Word} {v : Byte} (h : s.busWrite a v = some u) : s.Stored u := by
  obtain ⟨-, hime, hei, hhalted, -, -, -, htotal, hrom, hboot, hcgb, htitle, hcheats, hbreak, -, harr, hstop, hkind,
    hbanks, hspeed⟩ := State.busWrite_keeps h
  have hparams := State.parameters_iff.mpr ⟨hrom, hboot, hkind, hbanks, hcgb, htitle, hcheats, hbreak⟩
  exact ⟨State.unreached_iff.mpr ⟨hparams, hime, hei, hhalted, hspeed, htotal, harr, hstop⟩, State.busWrite_latch h⟩

theorem State.stored_memWrite (s : State) (site : FaultSite) (a : Word) (v : Byte) :
    s.Stored (s.memWrite site a v).state := by
  rcases s.memWrite_cases site a v with ⟨u, hu, he⟩ | ⟨-, he⟩ <;> rw [he]
  · exact (State.stored_busWrite hu).trans (State.stored_of_quiet rfl)
  · exact ⟨rfl, id⟩

@[simp] theorem State.memWrite_regs (s : State) (site : FaultSite) (a : Word) (v : Byte) :
    (s.memWrite site a v).state.regs = s.regs := by
  rcases s.memWrite_cases site a v with ⟨u, hu, he⟩ | ⟨-, he⟩ <;> rw [he]
  · exact (State.busWrite_keeps hu).1
  · rfl

/-- What the first part brings about and the second keeps holds where a course of actions ends. -/
theorem Flow.andThen_induction {P : State → Prop} {f : Flow} {k : State → Flow} (hf : P f.state)
    (hk : ∀ t, P t → P (k t).state) : P (f.andThen k).state := by
  cases f with
  | ok s => exact hk s hf
  | raised s => exact hf

theorem Flow.thenDo_induction {P : State → Prop} {f : Flow} {k : State → State} (hf : P f.state)
    (hk : ∀ t, P t → P (k t)) : P (f.thenDo k).state := by
  cases f with
  | ok s => exact hk s hf
  | raised s => exact hf

section Courses

variable {s t : State}

theorem State.stored_memWrite_of_quiet (site : FaultSite) (a : Word) (v : Byte) (h : t.quiet = s.quiet) :
    s.Stored (t.memWrite site a v).state :=
  (State.stored_of_quiet h).trans (t.stored_memWrite site a v)

theorem State.StoredOnly.setRegs {r : Regs} (h : s.StoredOnly t) (hf : r.f = t.regs.f) : s.StoredOnly (t.setRegs r) :=
  ⟨h.toStored.trans (State.stored_of_quiet rfl), hf.trans h.flags⟩

theorem State.StoredOnly.setSp (v : Word) (h : s.StoredOnly t) : s.StoredOnly (t.setSp v) := h.setRegs rfl

theorem State.StoredOnly.spend (n : Nat) (h : s.StoredOnly t) : s.StoredOnly (t.spend n) :=
  ⟨h.toStored.trans (State.stored_of_quiet rfl), h.flags⟩

theorem State.StoredOnly.memWrite (site : FaultSite) (a : Word) (v : Byte) (h : s.StoredOnly t) :
    s.StoredOnly (t.memWrite site a v).state :=
  ⟨h.toStored.trans (t.stored_memWrite site a v), by rw [State.memWrite_regs, h.flags]⟩

theorem State.StoredOnly.memWrite16 (site : FaultSite) (a v : Word) (h : s.StoredOnly t) :
    s.StoredOnly (t.memWrite16 site a v).state :=
  Flow.andThen_induction (h.memWrite site _ _) fun _ hu => hu.memWrite site _ _

theorem State.StoredOnly.push16 (site : FaultSite) (v : Word) (h : s.StoredOnly t) :
    s.StoredOnly (t.push16 site v).state :=
  Flow.andThen_induction ((h.setSp _).memWrite site _ _) fun _ hu => (hu.setSp _).memWrite site _ _

theorem State.StoredOnly.call (site : FaultSite) (a : Word) (h : s.StoredOnly t) :
    s.StoredOnly (t.call site a).state :=
  Flow.thenDo_induction ((h.spend 4).push16 site _) fun _ hu => hu.setRegs rfl

end Courses

theorem State.StoredOnly.refl (s : State) : s.StoredOnly s := ⟨⟨rfl, id⟩, rfl⟩

theorem State.storedOnly_advance (s : State) (len : Word) : s.StoredOnly (s.advance len) :=
  (State.StoredOnly.refl s).setRegs rfl

theorem State.storedOnly_modifyHl (s : State) (site : FaultSite) (g : Byte → Byte) :
    s.StoredOnly (s.modifyHl site g).state := by
  have read : s.StoredOnly ((s.advance 2#16).memRead s.regs.hl).2 := ⟨State.stored_of_quiet (by simp), rfl⟩
  exact read.memWrite site _ _

theorem State.stored_rotHl (s : State) (site : FaultSite) (op : RotOp) : s.Stored (s.rotHl site op).state := by
  unfold State.rotHl
  exact State.stored_memWrite_of_quiet _ _ _ (by simp)

/-! ### The shared forms of instructions without stores -/

@[simp] theorem State.quiet_aluReg (s : State) (op : AluOp) (src : Reg8) : (s.aluReg op src).quiet = s.quiet := by
  simp [State.aluReg]

@[simp] theorem State.quiet_aluHl (s : State) (op : AluOp) : (s.aluHl op).quiet = s.quiet := by simp [State.aluHl]

@[simp] theorem State.quiet_aluImm (s : State) (op : AluOp) (n : Byte) : (s.aluImm op n).quiet = s.quiet := by
  simp [State.aluImm]

@[simp] theorem State.quiet_rotReg (s : State) (op : RotOp) (r : Reg8) : (s.rotReg op r).quiet = s.quiet := by
  simp [State.rotReg]

@[simp] theorem State.quiet_rotA (s : State) (op : RotOp) : (s.rotA op).quiet = s.quiet := by simp [State.rotA]

@[simp] theorem State.loadFrom_eq (s : State) (a : Word) (dst : Reg8) : s.loadFrom a dst =
    ((s.setRegs (s.regs.set dst (s.peek a))).drew (s.answer a).drawn).spend 4 := rfl

@[simp] theorem State.jump_eq (s : State) (a : Word) : s.jump a = (s.setRegs { s.regs with pc := a }).spend 4 := rfl
@[simp] theorem State.jumpBy_eq (s : State) (e : Byte) : s.jumpBy e = s.jump (s.regs.pc + sext16 e) := rfl

@[simp] theorem State.quiet_pop16 (s : State) : s.pop16.2.quiet = s.quiet := by simp [State.pop16_eq]
@[simp] theorem State.pop16_flags (s : State) : s.pop16.2.regs.f = s.regs.f := by simp [State.pop16_eq]
@[simp] theorem State.quiet_popPc (s : State) : s.popPc.quiet = s.quiet := by simp [State.popPc]
@[simp] theorem State.popPc_flags (s : State) : s.popPc.regs.f = s.regs.f := by simp [State.popPc]

/-! ### Instructions by what they may change -/

/-- The instructions that change IME, eiPending, halted, KEY1 or the fault record by their own rule (R300, R321 to R324,
R333). -/
def isSystem : Instr → Bool
  | .halt | .stop _ | .di | .ei | .reti | .invalidD3 | .invalidDB | .invalidDD | .invalidE3 | .invalidE4
  | .invalidEB | .invalidEC | .invalidED | .invalidF4 | .invalidFC | .invalidFD => true
  | _ => false

/-- Which instruction without stores changes which of the system instructions' fields. -/
structure KeepsModes (i : Instr) (s t : State) : Prop where
  ime : i ≠ .di → i ≠ .reti → t.ime = s.ime
  eiPending : i ≠ .di → i ≠ .ei → t.eiPending = s.eiPending
  halted : i ≠ .halt → t.halted = s.halted
  key1 : (∀ n, i ≠ .stop n) → t.key1Speed = s.key1Speed ∧ t.key1Prepare = s.key1Prepare
  fault : (∀ b, (b, i) ∉ invalidRows) → t.fault = s.fault

theorem keepsModes_of_quiet {i : Instr} {s t : State} (h : t.quiet = s.quiet) : KeepsModes i s t where
  ime _ _ := congrArg (fun u => u.ime) h
  eiPending _ _ := congrArg (fun u => u.eiPending) h
  halted _ := congrArg (fun u => u.halted) h
  key1 _ := ⟨congrArg (fun u => u.key1Speed) h, congrArg (fun u => u.key1Prepare) h⟩
  fault _ := congrArg (fun u => u.fault) h

/-- An instruction that neither stores nor is a system instruction changes registers, cycles and draws alone. -/
theorem exec_quiet (i : Instr) (s : State) (hstore : mayStore i = false) (hsys : isSystem i = false) :
    ∃ t, exec i s = .next t ∧ t.quiet = s.quiet ∧ (writesFlags i = false → t.regs.f = s.regs.f) := by
  cases i
  case addR | addHl | addN | adcR | adcHl | adcN | subR | subHl | subN | sbcR | sbcHl | sbcN | andR | andHl | andN
      | xorR | xorHl | xorN | orR | orHl | orN | cpR | cpHl | cpN | incR | decR | addHlRr | addSpE | ldHlSpE | rlca
      | rla | rrca | rra | daa | cpl | scf | ccf | popAf | rlcR | rrcR | rlR | rrR | slaR | sraR | swapR | srlR | bitR
      | bitHl =>
    exact ⟨_, rfl, by simp, nofun⟩
  case ldRR | ldRHl | ldRN | ldABc | ldADe | ldAHlInc | ldAHlDec | ldhAA8 | ldhAC | ldAA16 | resR | setR | ldRrN16
      | incRr | decRr | popRr | nop | ldSpHl | jpA16 | jpHl | jrE | ret =>
    exact ⟨_, rfl, by simp, fun _ => by simp⟩
  case jpCc | jrCc | retCc =>
    refine ⟨_, rfl, ?_, fun _ => ?_⟩ <;> split <;> simp
  case halt | stop | di | ei | reti | invalidD3 | invalidDB | invalidDD | invalidE3 | invalidE4 | invalidEB | invalidEC
      | invalidED | invalidF4 | invalidFC | invalidFD => cases hsys
  all_goals cases hstore

theorem State.speedSwitch_frame (s : State) :
    ∃ speed prepare, s.speedSwitch = { s with key1Speed := speed, key1Prepare := prepare } := by
  unfold State.speedSwitch
  split
  · exact ⟨!s.key1Speed, false, rfl⟩
  · exact ⟨s.key1Speed, s.key1Prepare, rfl⟩

/-- RETI sets IME; the pop changes registers, cycles and draws (44_control.md R300). -/
theorem State.returnFromInterrupt_frame (s : State) : ∃ r k, r.f = s.regs.f
    ∧ s.returnFromInterrupt = (State.setRegs { s with ime := true } r |>.drew k).spend 12 := by
  rw [State.returnFromInterrupt, State.pop16_eq]
  refine ⟨{ s.regs with sp := s.regs.sp + 2#16, pc := s.poppedWord }, s.popDraws, rfl, ?_⟩
  rw [← State.spend_spend _ 8 4]
  rfl

/-- An instruction without stores leaves the plain state alone, and the system instructions' fields but its own. -/
theorem exec_plain (i : Instr) (s : State) (hstore : mayStore i = false) :
    ∃ t, exec i s = .next t ∧ t.plain = s.plain ∧ (writesFlags i = false → t.regs.f = s.regs.f)
      ∧ KeepsModes i s t := by
  cases hsys : isSystem i with
  | false =>
    obtain ⟨t, ht, hq, hf⟩ := exec_quiet i s hstore hsys
    exact ⟨t, ht, State.plain_of_quiet hq, hf, keepsModes_of_quiet hq⟩
  | true =>
    cases i
    case halt =>
      exact ⟨_, rfl, rfl, fun _ => rfl,
        { ime := fun _ _ => rfl
          eiPending := fun _ _ => rfl
          halted := fun h => absurd rfl h
          key1 := fun _ => ⟨rfl, rfl⟩
          fault := fun _ => rfl }⟩
    case di =>
      exact ⟨_, rfl, rfl, fun _ => rfl,
        { ime := fun h => absurd rfl h
          eiPending := fun h => absurd rfl h
          halted := fun _ => rfl
          key1 := fun _ => ⟨rfl, rfl⟩
          fault := fun _ => rfl }⟩
    case ei =>
      exact ⟨_, rfl, rfl, fun _ => rfl,
        { ime := fun _ _ => rfl
          eiPending := fun _ h => absurd rfl h
          halted := fun _ => rfl
          key1 := fun _ => ⟨rfl, rfl⟩
          fault := fun _ => rfl }⟩
    case reti =>
      obtain ⟨r, k, hf, h⟩ := (s.advance 1#16).returnFromInterrupt_frame
      exact ⟨_, congrArg Host.Outcome.next h, rfl, fun _ => hf,
        { ime := fun _ h => absurd rfl h
          eiPending := fun _ _ => rfl
          halted := fun _ => rfl
          key1 := fun _ => ⟨rfl, rfl⟩
          fault := fun _ => rfl }⟩
    case stop n =>
      obtain ⟨speed, prepare, h⟩ := (s.advance 2#16).speedSwitch_frame
      exact ⟨_, congrArg Host.Outcome.next h, rfl, fun _ => rfl,
        { ime := fun _ _ => rfl
          eiPending := fun _ _ => rfl
          halted := fun _ => rfl
          key1 := fun h => absurd rfl (h n)
          fault := fun _ => rfl }⟩
    case invalidD3 | invalidDB | invalidDD | invalidE3 | invalidE4 | invalidEB | invalidEC | invalidED | invalidF4
        | invalidFC | invalidFD =>
      exact ⟨_, rfl, rfl, fun _ => rfl,
        { ime := fun _ _ => rfl
          eiPending := fun _ _ => rfl
          halted := fun _ => rfl
          key1 := fun _ => ⟨rfl, rfl⟩
          fault := fun h => by simp [invalidRows] at h }⟩
    all_goals cases hsys

/-- A whole instruction that may store makes a course of stores. -/
theorem exec_stored (i : Instr) (s : State) (hstore : mayStore i = true) (hwhole : i.isPrefix = false) :
    ∃ t, exec i s = .next t ∧ s.Stored t ∧ (writesFlags i = false → t.regs.f = s.regs.f) := by
  have only : ∀ t, exec i s = .next t → s.StoredOnly t →
      ∃ t, exec i s = .next t ∧ s.Stored t ∧ (writesFlags i = false → t.regs.f = s.regs.f) :=
    fun t ht h => ⟨t, ht, h.toStored, fun _ => h.flags⟩
  have next := s.storedOnly_advance
  cases i
  case ldHlR | ldHlN | ldBcA | ldDeA | ldhA8A | ldhCA | ldA16A => exact only _ rfl ((next _).memWrite _ _ _)
  case ldHlIncA | ldHlDecA =>
    exact only _ rfl (Flow.thenDo_induction ((next _).memWrite _ _ _) fun _ h => h.setRegs (Regs.set16_f _ _ _))
  case ldA16Sp => exact only _ rfl ((next _).memWrite16 _ _ _)
  case resHl | setHl => exact only _ rfl (s.storedOnly_modifyHl _ _)
  case pushRr | pushAf => exact only _ rfl (((next _).spend 4).push16 _ _)
  case callA16 | rst => exact only _ rfl ((next _).call _ _)
  case callCc cc a =>
    cases hc : s.regs.f.holds cc with
    | false => exact only _ (if_neg (by simp [hc])) (next _)
    | true => exact only _ (if_pos hc) ((next _).call _ _)
  case incHl | decHl =>
    exact ⟨_, rfl, Flow.thenDo_induction (State.stored_memWrite_of_quiet _ _ _ (by simp)) fun _ h =>
      h.trans (State.stored_of_quiet (by simp)), nofun⟩
  case rlcHl | rrcHl | rlHl | rrHl | slaHl | sraHl | swapHl | srlHl => exact ⟨_, rfl, s.stored_rotHl _ _, nofun⟩
  case prefixCb => cases hwhole
  all_goals cases hstore

/-! ### The byte 0xCB (30_encoding.md R146) -/

theorem exec_decodeRot (y z : BitVec 3) (s : State) : exec (decodeRot y z) s = execRotRow y (Reg8.ofCode z) s := by
  unfold decodeRot execRotRow
  generalize y.toNat = op
  rcases op with _ | _ | _ | _ | _ | _ | _ | op <;> cases Reg8.ofCode z <;> rfl

/-- 0xCB runs the CB-page row of its second byte. -/
theorem exec_prefixCb (op2 : Byte) (s : State) : exec (.prefixCb op2) s = exec (decodeCb op2) s := by
  change execPrefixCb op2 s = _
  unfold execPrefixCb decodeCb
  dsimp only
  generalize (op2.extractLsb' 6 2).toNat = x
  rcases x with _ | _ | _ | x
  · exact (exec_decodeRot _ _ s).symm
  all_goals cases Reg8.ofCode (op2.extractLsb' 0 3) <;> rfl

/-- The rows of the CB page are whole instructions, none of them a system instruction. -/
theorem decodeCb_kind (op2 : Byte) : (decodeCb op2).isPrefix = false ∧ isSystem (decodeCb op2) = false := by
  unfold decodeCb decodeRot
  dsimp only
  repeat' split
  all_goals exact ⟨rfl, rfl⟩

/-- An instruction that may store, 0xCB among them, makes a course of stores. -/
theorem exec_store (i : Instr) (s : State) (hstore : mayStore i = true) :
    ∃ t, exec i s = .next t ∧ s.Stored t ∧ (writesFlags i = false → t.regs.f = s.regs.f) := by
  cases hprefix : i.isPrefix with
  | false => exact exec_stored i s hstore hprefix
  | true =>
    cases i
    case prefixCb op2 =>
      obtain ⟨hwhole, hsys⟩ := decodeCb_kind op2
      rw [exec_prefixCb]
      cases hrow : mayStore (decodeCb op2) with
      | true =>
        obtain ⟨t, ht, hst, -⟩ := exec_stored _ s hrow hwhole
        exact ⟨t, ht, hst, nofun⟩
      | false =>
        obtain ⟨t, ht, hq, -⟩ := exec_quiet _ s hrow hsys
        exact ⟨t, ht, State.stored_of_quiet hq, nofun⟩
    all_goals cases hprefix

/-! ### The phases of a step -/

theorem exec_keepsSetup {i : Instr} {s t : State} (h : exec i s = .next t) : s.KeepsSetup t := by
  cases hstore : mayStore i with
  | true =>
    obtain ⟨u, hu, hst, -⟩ := exec_store i s hstore
    obtain rfl : u = t := Host.Outcome.next.inj (hu.symm.trans h)
    exact hst.keepsSetup
  | false =>
    obtain ⟨u, hu, hplain, -⟩ := exec_plain i s hstore
    obtain rfl : u = t := Host.Outcome.next.inj (hu.symm.trans h)
    exact State.keepsSetup_of_plain hplain

theorem State.keepsSetup_begun (s : State) : s.KeepsSetup s.begun := by
  obtain ⟨req, later, h⟩ := s.begun_frame
  rw [h]
  exact ⟨rfl, id⟩

theorem State.quiet_fetchBytes (s : State) (len : Nat) : (s.fetchBytes len).2.quiet = s.quiet := by
  unfold State.fetchBytes
  split <;> simp

theorem State.quiet_fetch (s : State) : s.fetch.2.quiet = s.quiet := by
  simp [State.fetch, State.quiet_fetchBytes]

theorem State.keepsSetup_takeInterrupt (s : State) (i : Source) : s.KeepsSetup (s.takeInterrupt i).state := by
  have masked : s.KeepsSetup { s with ime := false, requested := s.requested &&& ~~~i.mask } := ⟨rfl, id⟩
  have pushed := ((State.StoredOnly.refl { s with ime := false, requested := s.requested &&& ~~~i.mask }).push16
    ⟨s.regs.pc, 0x00#8⟩ s.regs.pc).toStored.keepsSetup
  exact Flow.thenDo_induction (masked.trans pushed) fun _ h => ⟨h.parameters, h.latch⟩

theorem State.keepsSetup_finishStep (s : State) : s.KeepsSetup s.finishStep := by
  have timer : s.KeepsSetup s.payTimer := by
    obtain ⟨t, req, h, -⟩ := s.timerAdvance_frame s.timerDebt
    rw [State.payTimer, h]
    exact ⟨rfl, id⟩
  have wake : s.payTimer.KeepsSetup s.payTimer.wake := by
    obtain ⟨b, h⟩ := s.payTimer.wake_frame
    rw [h]
    exact ⟨rfl, id⟩
  have service : s.payTimer.wake.KeepsSetup s.payTimer.wake.service := by
    rcases s.payTimer.wake.service_cases with h | ⟨i, -, -, h⟩ <;> rw [h]
    · exact .refl _
    · exact State.keepsSetup_takeInterrupt _ i
  exact (timer.trans wake).trans service

theorem State.keepsSetup_afterInstr (s : State) : s.KeepsSetup s.afterInstr := by
  unfold State.afterInstr
  split
  · exact .refl s
  · have counted : s.KeepsSetup s.countInstr := ⟨rfl, id⟩
    exact counted.trans s.countInstr.keepsSetup_finishStep

theorem step_keepsSetup {s t : State} (h : step s = .next t) : s.KeepsSetup t := by
  refine s.keepsSetup_begun.trans ?_
  obtain ⟨-, ⟨-, rfl⟩ | ⟨-, -, rfl⟩ | ⟨-, -, u, hu, rfl⟩⟩ := step_cases h
  case inl => exact ⟨rfl, id⟩
  case inr.inl =>
    have idle : s.begun.KeepsSetup s.begun.idle := ⟨rfl, id⟩
    exact idle.trans s.begun.idle.keepsSetup_finishStep
  case inr.inr =>
    have fetched := State.keepsSetup_of_plain (State.plain_of_quiet s.begun.quiet_fetch)
    exact (fetched.trans (exec_keepsSetup hu)).trans u.keepsSetup_afterInstr

/-! ### Attempts (60_exceptions.md R412, R461) -/

theorem State.attempt_of_enabled {s : State} {i : Source} (h : s.enabled.getLsbD i.index = true) :
    s.attempt i = { s with requested := s.requested ||| 1#5 <<< i.index } := by
  rw [State.attempt, Source.attemptOn, if_pos h, Source.mask]

theorem State.attempt_of_disabled {s : State} {i : Source} (h : s.enabled.getLsbD i.index = false) :
    s.attempt i = s := by
  rw [State.attempt, Source.attemptOn, if_neg (by simp [h])]

/-- A request bit after attempts is the bit before, or one of the attempts with its enable bit set. -/
theorem State.getLsbD_requested_attemptAll (s : State) (is : List Attempt) (i : Source) :
    (s.attemptAll is).requested.getLsbD i.index
      = (s.requested.getLsbD i.index || (s.enabled.getLsbD i.index && is.any fun j => decide (j.source = i))) := by
  induction is generalizing s with
  | nil => simp
  | cons j is ih =>
    rw [State.attemptAll_cons, ih, State.attempt_requested, State.attempt_enabled, Source.getLsbD_attemptOn,
      List.any_cons, Bool.and_or_distrib_left, Bool.or_assoc]

@[simp] theorem State.attemptAll_arrivals (s : State) (is : List Attempt) :
    (s.attemptAll is).arrivals = s.arrivals := by
  obtain ⟨req, h⟩ := s.attemptAll_frame is
  rw [h]

@[simp] theorem State.takeArrivals_arrivals (s : State) : s.takeArrivals.arrivals = s.arrivals.drop 1 := by
  cases h : s.arrivals with
  | nil => simp [State.takeArrivals_nil h, h]
  | cons now later => simp [State.takeArrivals_cons h]

theorem State.takeArrivals_eq (s : State) :
    s.takeArrivals = { s with requested := s.takeArrivals.requested, arrivals := s.takeArrivals.arrivals } := by
  obtain ⟨req, later, h⟩ := s.takeArrivals_frame
  rw [h]

theorem State.getLsbD_requested_takeArrivals (s : State) (i : Source) :
    s.takeArrivals.requested.getLsbD i.index = (s.requested.getLsbD i.index
      || (s.enabled.getLsbD i.index && (s.arrivals.headD []).any fun j => decide (j.source = i))) := by
  cases h : s.arrivals with
  | nil => simp [State.takeArrivals_nil h]
  | cons now later => simp [State.takeArrivals_cons h, State.getLsbD_requested_attemptAll]

end Sys2Proof.Machine

namespace Sys2Proof.Proofs

open Sys2Proof.Machine Sys2Proof.Claims

/-- Settles O32: an instruction that may store makes a course of stores, which keeps what no bus write reaches; any other
leaves the plain state alone and, of the system instructions' fields, changes its own. -/
theorem execFrame : Obligations.ExecFrame := by
  intro i s
  cases hstore : mayStore i with
  | true =>
    obtain ⟨t, ht, hst, hf⟩ := exec_store i s hstore
    obtain ⟨hparams, hime, hei, hhalted, hspeed, htotal, harr, hstop⟩ := State.unreached_iff.mp hst.unreached
    obtain ⟨hrom, hboot, hkind, hbanks, hcgb, htitle, hcheats, hbreak⟩ := State.parameters_iff.mp hparams
    exact ⟨t, ht, fun _ _ => hime, fun _ _ => hei, fun _ => hhalted, fun _ => hspeed, hf, nofun, nofun, htotal, hrom,
      hboot, hcgb, htitle, hcheats, hbreak, harr, hstop, hkind, hbanks⟩
  | false =>
    obtain ⟨t, ht, hplain, hf, hmodes⟩ := exec_plain i s hstore
    obtain ⟨hrom, hboot, hkind, hbanks, hcgb, htitle, hcheats, hbreak⟩ :=
      State.parameters_iff.mp (State.parameters_of_plain hplain)
    have same {α : Type} (view : State → α) : view t.plain = view s.plain := congrArg view hplain
    exact ⟨t, ht, hmodes.ime, hmodes.eiPending, hmodes.halted, fun h => (hmodes.key1 h).1, hf, fun _ => hmodes.fault,
      fun _ => ⟨State.readCell_of_plain hplain, same State.mbc, same State.timer, same State.requested,
        same State.enabled, same State.wramBank, same State.bootEnabled, fun h =>
          State.sameMemory_of_plain hplain (hmodes.key1 h).1 (hmodes.key1 h).2⟩,
      same State.totalI, hrom, hboot, hcgb, htitle, hcheats, hbreak, same State.arrivals, same State.stopped, hkind,
      hbanks⟩

/-- Settles O45, by induction on the attempts taken from the head of `arrivals`. -/
theorem attemptIsMasked : Obligations.AttemptIsMasked :=
  ⟨fun _ _ => ⟨State.attempt_of_enabled, State.attempt_of_disabled⟩, by decide, by decide, State.attemptAll_nil,
    State.attemptAll_cons, fun _ => rfl, fun _ => State.takeArrivals_nil, fun _ _ _ => State.takeArrivals_cons,
    fun s => ⟨s.takeArrivals_arrivals, s.takeArrivals_eq, s.getLsbD_requested_takeArrivals⟩⟩

/-- Settles O58: each phase of a step keeps the parameters and the one-way boot latch. -/
theorem stepKeepsParameters : Obligations.StepKeepsParameters := by
  intro s t h
  obtain ⟨hrom, hboot, hkind, hbanks, hcgb, htitle, hcheats, hbreak⟩ :=
    State.parameters_iff.mp (step_keepsSetup h).parameters
  exact ⟨hrom, hboot, hkind, hbanks, hcgb, htitle, hcheats, hbreak, (step_keepsSetup h).latch⟩

end Sys2Proof.Proofs

/-! PROOFS. What a step does to the invariant and to the two counters (10_state.md R36 to R45, 60_exceptions.md R430,
70_reset_and_hazards.md R530), and the values after reset (10_state.md R50). -/

namespace Sys2Proof.Machine

open Sys2Proof.Claims

/-! ### The bus and the counters -/

@[simp] theorem State.regs_addCounters (s : State) (n m : Nat) : (addCounters s n m).regs = s.regs := rfl
@[simp] theorem State.peek_addCounters (s : State) (n m : Nat) (a : Word) : (addCounters s n m).peek a = s.peek a := rfl

@[simp] theorem State.busWrite_addCounters (s : State) (n m : Nat) (a : Word) (v : Byte) :
    (addCounters s n m).busWrite a v = (s.busWrite a v).map fun u => addCounters u n m := by
  unfold State.busWrite
  cases route a
  case romFixed | romWindow => simp only [Option.map_map]; rfl
  case extRam =>
    change (match s.mbc.extTarget a.toNat with | .ram off => _ | .fixed _ => _ | .clock _ => _) = _
    cases s.mbc.extTarget a.toNat <;> rfl
  case key1 | svbk =>
    change (if s.cgb = true then _ else _) = _
    split <;> rfl
  case bootLatch => cases v.getLsbD 0 <;> rfl
  all_goals rfl

/-! ### Courses of actions in lockstep -/

/-- A course of actions inside a step leads from `s` to `t`, and the same course from `s` with its counters moved on
leads to `t'`: the invariant is kept, at most `k` times 4 cycles are spent, at most `c` instructions are counted, and
`t'` is `t` with the counters moved on as much. -/
structure Lockstep (n m k c : Nat) (s t t' : State) : Prop where
  wf : s.wf = true → t.wf = true
  cycles : ∃ j ≤ k, t.cycles = s.cycles + 4 * j
  totalI : ∃ i ≤ c, t.totalI = s.totalI + i
  counters : t' = addCounters t n m

/-- Two courses of actions of one outcome, raised or not, in lockstep. -/
inductive Flow.Lockstep (n m k c : Nat) (s : State) : Flow → Flow → Prop
  | ok {t t' : State} : Machine.Lockstep n m k c s t t' → Flow.Lockstep n m k c s (.ok t) (.ok t')
  | raised {t t' : State} : Machine.Lockstep n m k c s t t' → Flow.Lockstep n m k c s (.raised t) (.raised t')

theorem Lockstep.refl (n m : Nat) (s : State) : Lockstep n m 0 0 s s (addCounters s n m) :=
  ⟨id, ⟨0, Nat.le_refl 0, rfl⟩, ⟨0, Nat.le_refl 0, rfl⟩, rfl⟩

section Rules

variable {n m k l c d : Nat} {s t t' : State} {f f' : Flow}

theorem Lockstep.mono (h : Lockstep n m k c s t t') (hkl : k ≤ l) (hcd : c ≤ d := by exact Nat.le_refl _) :
    Lockstep n m l d s t t' := by
  obtain ⟨hwf, ⟨j, hj, hc⟩, ⟨i, hi, htotal⟩, hcount⟩ := h
  exact ⟨hwf, ⟨j, hj.trans hkl, hc⟩, ⟨i, hi.trans hcd, htotal⟩, hcount⟩

theorem Lockstep.trans {u u' : State} (h : Lockstep n m k c s t t') (h' : Lockstep n m l d t u u') :
    Lockstep n m (k + l) (c + d) s u u' := by
  obtain ⟨hwf, ⟨i, hi, hc⟩, ⟨p, hp, htotal⟩, -⟩ := h
  obtain ⟨hwf', ⟨j, hj, hc'⟩, ⟨q, hq, htotal'⟩, hcount'⟩ := h'
  exact ⟨hwf' ∘ hwf, ⟨i + j, Nat.add_le_add hi hj, by omega⟩, ⟨p + q, Nat.add_le_add hp hq, by omega⟩, hcount'⟩

theorem Lockstep.ite {p : Prop} [Decidable p] {u u' : State} (h : Lockstep n m k c s t t')
    (h' : Lockstep n m k c s u u') : Lockstep n m k c s (if p then t else u) (if p then t' else u') := by
  split <;> assumption

theorem Flow.Lockstep.state (h : Flow.Lockstep n m k c s f f') : Machine.Lockstep n m k c s f.state f'.state := by
  cases h <;> assumption

/-- An update that neither the invariant nor the counters see. -/
theorem Lockstep.update (h : Lockstep n m k c s t t') (g : State → State)
    (hwf : ∀ u, (g u).wf = u.wf := by intro; rfl) (hcycles : ∀ u, (g u).cycles = u.cycles := by intro; rfl)
    (htotal : ∀ u, (g u).totalI = u.totalI := by intro; rfl)
    (hcount : ∀ u, g (addCounters u n m) = addCounters (g u) n m := by intro; rfl) :
    Lockstep n m k c s (g t) (g t') where
  wf hs := (hwf t).trans (h.wf hs)
  cycles := by rw [hcycles]; exact h.cycles
  totalI := by rw [htotal]; exact h.totalI
  counters := by rw [h.counters, hcount]

theorem Lockstep.setRegs (r : Regs) (h : Lockstep n m k c s t t') : Lockstep n m k c s (t.setRegs r) (t'.setRegs r) :=
  h.update (·.setRegs r)

theorem Lockstep.setPc (v : Word) (h : Lockstep n m k c s t t') : Lockstep n m k c s (t.setPc v) (t'.setPc v) :=
  h.update (·.setPc v)

theorem Lockstep.spend (j : Nat) (h : Lockstep n m k c s t t') :
    Lockstep n m (k + j) c s (t.spend (4 * j)) (t'.spend (4 * j)) := by
  refine h.trans (d := 0) ⟨id, ⟨j, Nat.le_refl j, rfl⟩, ⟨0, Nat.le_refl 0, rfl⟩, ?_⟩
  rw [h.counters]
  simp only [State.spend, addCounters, Nat.add_right_comm]

theorem Lockstep.read (a : Word) (h : Lockstep n m k c s t t') :
    Lockstep n m (k + 1) c s (t.memRead a).2 (t'.memRead a).2 := by
  obtain rfl := h.counters
  exact (h.update (·.drew (t.answer a).drawn)).spend 1

theorem Lockstep.memWrite (site : FaultSite) (a : Word) (v : Byte) (h : Lockstep n m k c s t t') :
    Flow.Lockstep n m (k + 1) c s (t.memWrite site a v) (t'.memWrite site a v) := by
  obtain rfl := h.counters
  rcases t.memWrite_cases site a v with ⟨u, hu, he⟩ | ⟨hn, he⟩ <;> rw [he]
  · rw [State.memWrite_of_some (u := addCounters u n m) (by rw [State.busWrite_addCounters, hu]; rfl)]
    obtain ⟨-, -, -, -, -, -, hc, htotal, -⟩ := State.busWrite_keeps hu
    have accepted : Lockstep n m 0 0 t u (addCounters u n m) :=
      ⟨fun hs => State.wf_busWrite hs hu, ⟨0, Nat.le_refl 0, hc⟩, ⟨0, Nat.le_refl 0, htotal⟩, rfl⟩
    exact .ok ((h.trans accepted).spend 1)
  · rw [State.memWrite_of_none (by rw [State.busWrite_addCounters, hn]; rfl)]
    exact .raised ((h.update (·.raise _)).mono (Nat.le_succ k))

theorem Flow.Lockstep.andThen {g g' : State → Flow} (j : Nat) (h : Flow.Lockstep n m k c s f f')
    (hg : ∀ u, Machine.Lockstep n m k c s u (addCounters u n m) →
      Flow.Lockstep n m (k + j) c s (g u) (g' (addCounters u n m))) :
    Flow.Lockstep n m (k + j) c s (f.andThen g) (f'.andThen g') := by
  cases h with
  | ok h =>
    obtain rfl := h.counters
    exact hg _ h
  | raised h => exact .raised (h.mono (Nat.le_add_right k j))

theorem Flow.Lockstep.thenDo {g g' : State → State} (j : Nat) (h : Flow.Lockstep n m k c s f f')
    (hg : ∀ u, Machine.Lockstep n m k c s u (addCounters u n m) →
      Machine.Lockstep n m (k + j) c s (g u) (g' (addCounters u n m))) :
    Flow.Lockstep n m (k + j) c s (f.thenDo g) (f'.thenDo g') := by
  cases h with
  | ok h =>
    obtain rfl := h.counters
    exact .ok (hg _ h)
  | raised h => exact .raised (h.mono (Nat.le_add_right k j))

theorem Lockstep.memWrite16 (site : FaultSite) (a v : Word) (h : Lockstep n m k c s t t') :
    Flow.Lockstep n m (k + 2) c s (t.memWrite16 site a v) (t'.memWrite16 site a v) :=
  (h.memWrite site a _).andThen 1 fun _ hu => hu.memWrite site _ _

theorem Lockstep.push16 (site : FaultSite) (v : Word) (h : Lockstep n m k c s t t') :
    Flow.Lockstep n m (k + 2) c s (t.push16 site v) (t'.push16 site v) := by
  obtain rfl := h.counters
  exact ((h.setRegs _).memWrite site _ _).andThen 1 fun _ hu => (hu.setRegs _).memWrite site _ _

theorem Lockstep.call (site : FaultSite) (a : Word) (h : Lockstep n m k c s t t') :
    Flow.Lockstep n m (k + 3) c s (t.call site a) (t'.call site a) := by
  obtain rfl := h.counters
  exact ((h.spend 1).push16 site _).thenDo 0 fun _ hu => hu.setRegs _

theorem Lockstep.pop16 (h : Lockstep n m k c s t t') : Lockstep n m (k + 2) c s t.pop16.2 t'.pop16.2 := by
  obtain rfl := h.counters
  exact (((h.read _).setRegs _).read _).setRegs _

theorem Lockstep.loadFrom (a : Word) (dst : Reg8) (h : Lockstep n m k c s t t') :
    Lockstep n m (k + 1) c s (t.loadFrom a dst) (t'.loadFrom a dst) := by
  obtain rfl := h.counters
  exact (h.read a).setRegs _

/-- A pop whose word goes to a register. -/
theorem Lockstep.popTo (g : Regs → Word → Regs) (h : Lockstep n m k c s t t') :
    Lockstep n m (k + 2) c s (t.pop16.2.setRegs (g t.pop16.2.regs t.pop16.1))
      (t'.pop16.2.setRegs (g t'.pop16.2.regs t'.pop16.1)) := by
  obtain rfl := h.counters
  exact h.pop16.setRegs _

theorem Lockstep.popPc (h : Lockstep n m k c s t t') : Lockstep n m (k + 3) c s t.popPc t'.popPc :=
  (h.popTo fun r v => { r with pc := v }).spend 1

theorem Lockstep.returnFromInterrupt (h : Lockstep n m k c s t t') :
    Lockstep n m (k + 3) c s t.returnFromInterrupt t'.returnFromInterrupt :=
  ((h.popTo fun r v => { r with pc := v }).update fun u => { u with ime := true }).spend 1

theorem Lockstep.speedSwitch (h : Lockstep n m k c s t t') : Lockstep n m k c s t.speedSwitch t'.speedSwitch := by
  obtain rfl := h.counters
  exact .ite (h.update fun u => { u with key1Speed := !t.key1Speed, key1Prepare := false }) h

end Rules

section Instructions

variable (n m : Nat) (s : State)

theorem State.lockstep_advance (len : Word) : Lockstep n m 0 0 s (s.advance len) ((addCounters s n m).advance len) :=
  (Lockstep.refl n m s).setRegs _

theorem State.lockstep_aluHl (op : AluOp) : Lockstep n m 1 0 s (s.aluHl op) ((addCounters s n m).aluHl op) :=
  ((s.lockstep_advance n m _).read _).setRegs _

theorem State.lockstep_rotHl (site : FaultSite) (op : RotOp) :
    Flow.Lockstep n m 2 0 s (s.rotHl site op) ((addCounters s n m).rotHl site op) :=
  (((s.lockstep_advance n m _).read _).setRegs _).memWrite _ _ _

theorem State.lockstep_modifyHl (site : FaultSite) (g : Byte → Byte) :
    Flow.Lockstep n m 2 0 s (s.modifyHl site g) ((addCounters s n m).modifyHl site g) :=
  ((s.lockstep_advance n m _).read _).memWrite _ _ _

end Instructions

/-- The most cycles, in fours, that an instruction spends after its fetch: RET cc alone has a fourth (44_control.md
R299). -/
def execBound : Instr → Nat
  | .retCc _ => 4
  | _ => 3

theorem three_le_execBound (i : Instr) : 3 ≤ execBound i := by
  unfold execBound
  split <;> decide

/-- An instruction completes, in lockstep, within its bound. -/
def ExecLockstep (n m : Nat) (i : Instr) (s : State) : Prop :=
  ∃ t t', exec i s = .next t ∧ exec i (addCounters s n m) = .next t' ∧ Lockstep n m (execBound i) 0 s t t'

theorem execLockstep_of_le {n m k : Nat} {i : Instr} {s t t' : State} (ht : exec i s = .next t)
    (ht' : exec i (addCounters s n m) = .next t') (h : Lockstep n m k 0 s t t')
    (hk : k ≤ 3 := by decide) : ExecLockstep n m i s :=
  ⟨t, t', ht, ht', h.mono (hk.trans (three_le_execBound i))⟩

/-- An instruction that never stores: updates of the registers and of the system instructions' fields, reads and
cycles. -/
theorem execLockstep_quiet (n m : Nat) (i : Instr) (s : State) (hstore : mayStore i = false) :
    ExecLockstep n m i s := by
  have registers := (Lockstep.refl n m s).setRegs
  have next := s.lockstep_advance n m
  cases i
  case addR | adcR | subR | sbcR | andR | xorR | orR | cpR | addN | adcN | subN | sbcN | andN | xorN | orN | cpN
      | ldRR | ldRN | incR | decR | rlca | rla | rrca | rra | daa | cpl | scf | ccf | ldRrN16 | jpHl | nop | rlcR
      | rrcR | rlR | rrR | slaR | sraR | swapR | srlR | bitR | resR | setR =>
    exact execLockstep_of_le rfl rfl (registers _)
  case addHl | adcHl | subHl | sbcHl | andHl | xorHl | orHl | cpHl =>
    exact execLockstep_of_le rfl rfl (s.lockstep_aluHl n m _)
  case ldRHl | ldABc | ldADe | ldhAA8 | ldhAC | ldAA16 => exact execLockstep_of_le rfl rfl ((next _).loadFrom _ _)
  case ldAHlInc | ldAHlDec => exact execLockstep_of_le rfl rfl (((next _).loadFrom _ _).setRegs _)
  case bitHl => exact execLockstep_of_le rfl rfl (((next _).read _).setRegs _)
  case addHlRr | incRr | decRr | ldSpHl | ldHlSpE | jpA16 | jrE =>
    exact execLockstep_of_le rfl rfl ((registers _).spend 1)
  case addSpE => exact execLockstep_of_le rfl rfl ((registers _).spend 2)
  case jpCc | jrCc =>
    exact execLockstep_of_le rfl rfl (.ite ((registers _).spend 1) ((registers _).mono (by decide)))
  case retCc cc =>
    exact ⟨_, _, rfl, rfl, .ite ((next _).spend 1).popPc (((next _).spend 1).mono (l := 4) (by decide))⟩
  case ret => exact execLockstep_of_le rfl rfl (next _).popPc
  case reti => exact execLockstep_of_le rfl rfl (next _).returnFromInterrupt
  case popRr rr => exact execLockstep_of_le rfl rfl ((next _).popTo fun r v => r.set16 (pairOf rr) v)
  case popAf => exact execLockstep_of_le rfl rfl ((next _).popTo fun r v => r.setAf v)
  case halt => exact execLockstep_of_le rfl rfl ((next _).update fun u => { u with halted := true })
  case di => exact execLockstep_of_le rfl rfl ((next _).update fun u => { u with ime := false, eiPending := false })
  case ei => exact execLockstep_of_le rfl rfl ((next _).update fun u => { u with eiPending := true })
  case stop => exact execLockstep_of_le rfl rfl (next _).speedSwitch
  case invalidD3 | invalidDB | invalidDD | invalidE3 | invalidE4 | invalidEB | invalidEC | invalidED | invalidF4
      | invalidFC | invalidFD =>
    exact execLockstep_of_le rfl rfl ((Lockstep.refl n m s).update (·.raise _))
  all_goals cases hstore

/-- A whole instruction that may store: reads, updates of the registers, and writes, each of which may raise. -/
theorem execLockstep_stored (n m : Nat) (i : Instr) (s : State) (hstore : mayStore i = true)
    (hwhole : i.isPrefix = false) : ExecLockstep n m i s := by
  have next := s.lockstep_advance n m
  cases i
  case ldHlR | ldHlN | ldBcA | ldDeA | ldhA8A | ldhCA | ldA16A =>
    exact execLockstep_of_le rfl rfl ((next _).memWrite _ _ _).state
  case ldHlIncA | ldHlDecA =>
    exact execLockstep_of_le rfl rfl (((next _).memWrite _ _ _).thenDo 0 fun _ hu => hu.setRegs _).state
  case ldA16Sp => exact execLockstep_of_le rfl rfl ((next _).memWrite16 _ _ _).state
  case incHl | decHl =>
    exact execLockstep_of_le rfl rfl (((next _).read _).memWrite _ _ _ |>.thenDo 0 fun _ hu => hu.setRegs _).state
  case rlcHl | rrcHl | rlHl | rrHl | slaHl | sraHl | swapHl | srlHl =>
    exact execLockstep_of_le rfl rfl (s.lockstep_rotHl n m _ _).state
  case resHl | setHl => exact execLockstep_of_le rfl rfl (s.lockstep_modifyHl n m _ _).state
  case pushRr | pushAf => exact execLockstep_of_le rfl rfl (((next _).spend 1).push16 _ _).state
  case callA16 | rst => exact execLockstep_of_le rfl rfl ((next _).call _ _).state
  case callCc cc a =>
    by_cases hc : s.regs.f.holds cc = true
    · exact execLockstep_of_le (if_pos hc) (if_pos hc) ((next _).call _ _).state
    · exact execLockstep_of_le (if_neg hc) (if_neg hc) (next _)
  case prefixCb => cases hwhole
  all_goals cases hstore

theorem execBound_decodeRot (y z : BitVec 3) : execBound (decodeRot y z) = 3 := by
  unfold decodeRot
  split <;> rfl

theorem execBound_decodeCb (op2 : Byte) : execBound (decodeCb op2) = 3 := by
  unfold decodeCb
  dsimp only
  split
  case h_1 => exact execBound_decodeRot _ _
  all_goals rfl

/-- Every instruction completes, in lockstep, within its bound; 0xCB does as the CB-page row of its second byte. -/
theorem execLockstep (n m : Nat) (i : Instr) (s : State) : ExecLockstep n m i s := by
  have whole : ∀ j : Instr, j.isPrefix = false → ExecLockstep n m j s := fun j hj => by
    cases hstore : mayStore j with
    | true => exact execLockstep_stored n m j s hstore hj
    | false => exact execLockstep_quiet n m j s hstore
  cases hprefix : i.isPrefix with
  | false => exact whole i hprefix
  | true =>
    cases i
    case prefixCb op2 =>
      obtain ⟨t, t', ht, ht', h⟩ := whole (decodeCb op2) (decodeCb_kind op2).1
      rw [execBound_decodeCb] at h
      exact execLockstep_of_le ((exec_prefixCb op2 s).trans ht) ((exec_prefixCb op2 _).trans ht') h (Nat.le_refl 3)
    all_goals cases hprefix

/-! ### The bound with the fetch (30_encoding.md R140) -/

theorem execBound_decodeBlock0 (y z : BitVec 3) (b1 b2 : Byte) : execBound (decodeBlock0 y z b1 b2) = 3 := by
  unfold decodeBlock0
  dsimp only
  repeat' split
  all_goals rfl

theorem execBound_decodeBlock1 (y z : BitVec 3) : execBound (decodeBlock1 y z) = 3 := by
  unfold decodeBlock1
  split <;> rfl

theorem execBound_decodeBlock2 (y z : BitVec 3) : execBound (decodeBlock2 y z) = 3 := by
  unfold decodeBlock2
  split <;> rfl

/-- In block 3 the rows of RET cc are those of z = 0 and y < 4. -/
theorem execBound_decodeBlock3 (y z : BitVec 3) (b1 b2 : Byte) :
    execBound (decodeBlock3 y z b1 b2) = 3 ∨ execBound (decodeBlock3 y z b1 b2) = 4 ∧ z.toNat = 0 ∧ y.toNat < 4 := by
  have hy := y.isLt
  unfold decodeBlock3 decodeAluImm
  dsimp only
  split
  case h_1 hz =>
    split
    case h_5 h4 h5 h6 h7 =>
      simp only [imp_false] at h4 h5 h6 h7
      exact .inr ⟨rfl, hz, by omega⟩
    all_goals exact .inl rfl
  all_goals
    repeat' split
    all_goals exact .inl rfl

theorem execBound_decodeOp (op b1 b2 : Byte) :
    execBound (decodeOp op b1 b2) = execBound (decodeBase op b1 b2) := by
  unfold decodeOp
  split
  case h_1 op2 h => exact (execBound_decodeCb op2).trans (congrArg execBound h).symm
  case h_2 => rfl

/-- The rows of RET cc have length 1. -/
theorem lengthOf_retCc : ∀ op : Byte, (op.extractLsb' 6 2).toNat ∉ [0, 1, 2] → (op.extractLsb' 0 3).toNat = 0 →
    (op.extractLsb' 3 3).toNat < 4 → lengthOf op = 1 := by decide

theorem lengthOf_cases (op : Byte) : lengthOf op = 1 ∨ lengthOf op = 2 ∨ lengthOf op = 3 := by
  unfold lengthOf
  split
  · exact .inr (.inr rfl)
  · split
    · exact .inr (.inl rfl)
    · exact .inl rfl

/-- The fetch and the rest of an instruction spend at most 24 cycles: those of CALL. -/
theorem lengthOf_add_execBound_le (op b1 b2 : Byte) : lengthOf op + execBound (decodeOp op b1 b2) ≤ 6 := by
  have hlen : lengthOf op ≤ 3 := by rcases lengthOf_cases op with h | h | h <;> omega
  rw [execBound_decodeOp]
  unfold decodeBase
  dsimp only
  split
  case h_1 => rw [execBound_decodeBlock0]; omega
  case h_2 => rw [execBound_decodeBlock1]; omega
  case h_3 => rw [execBound_decodeBlock2]; omega
  case h_4 h0 h1 h2 =>
    rcases execBound_decodeBlock3 (op.extractLsb' 3 3) (op.extractLsb' 0 3) b1 b2 with h | ⟨h, hz, hy⟩ <;> rw [h]
    · omega
    · rw [lengthOf_retCc op (by simpa using ⟨h0, h1, h2⟩) hz hy]; omega

/-! ### Fetch and phases in lockstep -/

section Phases

variable {n m k c : Nat} {s t t' : State}

theorem Lockstep.attemptAll (is : List Attempt) (h : Lockstep n m k c s t t') :
    Lockstep n m k c s (t.attemptAll is) (t'.attemptAll is) := by
  induction is generalizing t t' with
  | nil => exact h
  | cons i is ih => exact ih (h.update (·.attempt i.source))

theorem State.lockstep_takeArrivals (n m : Nat) (s : State) :
    Lockstep n m 0 0 s s.takeArrivals (addCounters s n m).takeArrivals := by
  have h := Lockstep.refl n m s
  cases harr : s.arrivals with
  | nil => rwa [State.takeArrivals_nil harr, State.takeArrivals_nil (s := addCounters s n m) harr]
  | cons now later =>
    rw [State.takeArrivals_cons harr, State.takeArrivals_cons (s := addCounters s n m) harr]
    exact (h.update fun u => { u with arrivals := later }).attemptAll now

theorem State.lockstep_begun (n m : Nat) (s : State) : Lockstep n m 0 0 s s.begun (addCounters s n m).begun :=
  (s.lockstep_takeArrivals n m).update (·.activateEi)

theorem Lockstep.fetchBytes {len : Nat} (hlen : len = 1 ∨ len = 2 ∨ len = 3) (h : Lockstep n m 1 c s t t') :
    (t'.fetchBytes len).1 = (t.fetchBytes len).1
      ∧ Lockstep n m len c s (t.fetchBytes len).2 (t'.fetchBytes len).2 := by
  obtain rfl := h.counters
  rcases hlen with rfl | rfl | rfl
  · exact ⟨rfl, h⟩
  · exact ⟨rfl, h.read _⟩
  · exact ⟨rfl, (h.read _).read _⟩

theorem State.lengthOf_add_execBound_fetch_le (s : State) :
    lengthOf (s.peek s.regs.pc) + execBound s.fetch.1 ≤ 6 :=
  lengthOf_add_execBound_le _ _ _

/-- The fetch answers the same instruction in both runs. -/
theorem State.lockstep_fetch (n m : Nat) (s : State) :
    (addCounters s n m).fetch.1 = s.fetch.1
      ∧ Lockstep n m (lengthOf (s.peek s.regs.pc)) 0 s s.fetch.2 (addCounters s n m).fetch.2 := by
  obtain ⟨himm, h⟩ := ((Lockstep.refl n m s).read s.regs.pc).fetchBytes (lengthOf_cases (s.peek s.regs.pc))
  refine ⟨?_, h⟩
  simp only [State.fetch, State.memRead_fst, State.regs_addCounters, State.peek_addCounters, himm]

theorem State.timerTicks_addCounters (n m : Nat) (s : State) (j : Nat) :
    (addCounters s n m).timerTicks j = addCounters (s.timerTicks j) n m := by
  induction j generalizing s with
  | zero => rfl
  | succ j ih =>
    simp only [State.timerTicks]
    rw [← ih]
    change State.timerTicks (if s.timer.tima = 0xFF#8 then _ else _) j = _
    split <;> rfl

theorem State.timerAdvance_addCounters (n m : Nat) (s : State) (j : Nat) :
    (addCounters s n m).timerAdvance j = addCounters (s.timerAdvance j) n m := by
  unfold State.timerAdvance State.advanceTima
  rw [apply_ite (addCounters · n m)]
  exact ite_congr rfl (fun _ => by rw [← State.timerTicks_addCounters]; rfl) fun _ => rfl

theorem State.wf_payTimer (hs : s.wf = true) : s.payTimer.wf = true := by
  obtain ⟨hstores, hbank, -, htima, hboot, hrom⟩ := (State.wf_iff s).mp hs
  obtain ⟨u, req, h, -, -, -, hdiv, htima'⟩ := s.timerAdvance_frame s.timerDebt
  rw [State.payTimer, h]
  exact (State.wf_iff _).mpr ⟨hstores, hbank, hdiv, htima' htima, hboot, hrom⟩

theorem Lockstep.payTimer (h : Lockstep n m k c s t t') : Lockstep n m k c s t.payTimer t'.payTimer := by
  obtain rfl := h.counters
  obtain ⟨u, req, hframe, -⟩ := t.timerAdvance_frame t.timerDebt
  refine ⟨State.wf_payTimer ∘ h.wf, ?_, ?_, ?_⟩
  · rw [State.payTimer, hframe]; exact h.cycles
  · rw [State.payTimer, hframe]; exact h.totalI
  · exact congrArg (fun u => { u with timerDebt := 0 }) (State.timerAdvance_addCounters n m t t.timerDebt)

theorem Lockstep.wake (h : Lockstep n m k c s t t') : Lockstep n m k c s t.wake t'.wake := by
  obtain rfl := h.counters
  exact .ite (h.update fun u => { u with halted := false }) h

theorem Lockstep.takeInterrupt (i : Source) (h : Lockstep n m k c s t t') :
    Flow.Lockstep n m (k + 5) c s (t.takeInterrupt i) (t'.takeInterrupt i) := by
  obtain rfl := h.counters
  exact ((h.update fun u => { u with ime := false, requested := u.requested &&& ~~~i.mask }).push16 _ _).thenDo 3
    fun _ hu => (hu.setPc i.vector).spend 3

theorem Lockstep.service (h : Lockstep n m k c s t t') : Lockstep n m (k + 5) c s t.service t'.service := by
  obtain rfl := h.counters
  have quiet := h.mono (Nat.le_add_right k 5)
  refine .ite ?_ quiet
  change Lockstep n m (k + 5) c s _ (match firstSource t.pending with | some i => _ | none => _)
  cases firstSource t.pending with
  | none => exact quiet
  | some i => exact (h.takeInterrupt i).state

theorem Lockstep.finishStep (h : Lockstep n m k c s t t') : Lockstep n m (k + 5) c s t.finishStep t'.finishStep :=
  h.payTimer.wake.service

theorem Lockstep.countInstr (h : Lockstep n m k c s t t') :
    Lockstep n m k (c + 1) s t.countInstr t'.countInstr := by
  refine h.trans (l := 0) ⟨id, ⟨0, Nat.le_refl 0, rfl⟩, ⟨1, Nat.le_refl 1, rfl⟩, ?_⟩
  rw [h.counters]
  simp only [State.countInstr, addCounters, Nat.add_right_comm]

theorem Lockstep.afterInstr (h : Lockstep n m k c s t t') :
    Lockstep n m (k + 5) (c + 1) s t.afterInstr t'.afterInstr := by
  obtain rfl := h.counters
  exact .ite (h.mono (Nat.le_add_right k 5) (Nat.le_succ c)) h.countInstr.finishStep

end Phases

/-! ### The step -/

/-- The converse of `step_cases`. -/
theorem step_of_cases {s t : State} (hf : s.fault = none)
    (h : (s.begun.atBreakpoint = true ∧ t = s.begun.stopAtBreakpoint)
      ∨ (s.begun.atBreakpoint = false ∧ s.begun.halted = true ∧ t = s.begun.idle.finishStep)
      ∨ (s.begun.atBreakpoint = false ∧ s.begun.halted = false
        ∧ ∃ u, exec s.begun.fetch.1 s.begun.fetch.2 = .next u ∧ t = u.afterInstr)) : step s = .next t := by
  obtain ⟨req, later, ha⟩ := s.takeArrivals_frame
  have hf' : s.takeArrivals.fault = none := by rw [ha, hf]
  rw [step, stepPhases, hf', ← State.begun]
  obtain ⟨hb, rfl⟩ | ⟨hb, hh, rfl⟩ | ⟨hb, hh, u, hu, rfl⟩ := h
  · simp [hb]
  · simp [hb, hh]
  · simp [hb, hh, hu]

/-- A step that answers a next state answers one from the state with its counters moved on, in lockstep: at most 11
times 4 cycles and one instruction. -/
theorem step_lockstep {s t : State} (n m : Nat) (h : step s = .next t) :
    ∃ t', step (addCounters s n m) = .next t' ∧ Lockstep n m 11 1 s t t' := by
  have begun := s.lockstep_begun n m
  obtain ⟨hf, ⟨hb, rfl⟩ | ⟨hb, hh, rfl⟩ | ⟨hb, hh, u, hu, rfl⟩⟩ := step_cases h
  · refine ⟨_, step_of_cases hf (.inl ⟨?_, rfl⟩), (begun.update (·.stopAtBreakpoint)).mono (by decide) (by decide)⟩
    rw [begun.counters]
    exact hb
  · refine ⟨_, step_of_cases hf (.inr (.inl ⟨?_, ?_, rfl⟩)),
      (begun.spend 1).finishStep.mono (by decide) (by decide)⟩ <;> rw [begun.counters]
    · exact hb
    · exact hh
  · obtain ⟨hinstr, fetched⟩ := s.begun.lockstep_fetch n m
    obtain ⟨v, v', hv, hv', ran⟩ := execLockstep n m s.begun.fetch.1 s.begun.fetch.2
    obtain rfl : v = u := Host.Outcome.next.inj (hv.symm.trans hu)
    have bound := s.begun.lengthOf_add_execBound_fetch_le
    refine ⟨_, step_of_cases hf (.inr (.inr ⟨?_, ?_, v', ?_, rfl⟩)),
      ((begun.trans fetched).trans ran).afterInstr.mono (by omega) (by decide)⟩ <;> rw [begun.counters]
    · exact hb
    · exact hh
    · rw [hinstr, fetched.counters, hv']

end Sys2Proof.Machine

namespace Sys2Proof.Proofs

open Sys2Proof.Machine Sys2Proof.Claims

/-- Settles O55: each phase of a step keeps the invariant. -/
theorem stepKeepsWf : Obligations.StepKeepsWf := by
  intro s t hs h
  obtain ⟨_, _, hlock⟩ := step_lockstep 0 0 h
  exact hlock.wf hs

/-- Settles O59: 24 cycles for the longest instruction with its fetch (R530) and 20 for a dispatch. -/
theorem stepCycles : Obligations.StepCycles := by
  intro s t h
  obtain ⟨_, _, hlock⟩ := step_lockstep 0 0 h
  obtain ⟨i, hi, htotal⟩ := hlock.totalI
  exact ⟨hlock.cycles, by omega⟩

/-- Settles O60: the two runs go in lockstep. -/
theorem countersAreInvisible : Obligations.CountersAreInvisible := by
  intro s t n m h
  obtain ⟨t', ht', hlock⟩ := step_lockstep n m h
  rw [ht', hlock.counters]

/-- Settles O50, field by field of `State.reset`. -/
theorem resetValues : Obligations.ResetValues :=
  ⟨rfl, rfl, rfl, rfl, rfl, rfl, rfl, rfl, rfl, rfl, rfl, rfl, rfl, rfl, rfl, rfl, rfl, rfl, rfl, rfl, rfl,
    fun _ => rfl⟩

/-- Settles O51: by the presence of a boot image, and field by field of `State.resetOp`. -/
theorem resetOperation : Obligations.ResetOperation := by
  intro s
  have noBoot (hboot : s.boot.isSome = false) : ¬s.boot.isSome = true := by simp [hboot]
  exact ⟨fun hboot => ⟨if_neg (noBoot hboot), hboot⟩, fun hboot => ⟨if_pos hboot, hboot⟩, rfl, rfl, rfl, rfl, rfl, rfl,
    rfl, rfl, rfl, rfl, rfl, rfl, rfl, rfl, rfl, rfl, rfl, rfl, rfl, rfl, rfl, rfl, rfl⟩

/-- Settles O56: the stores and the bounded fields of `State.reset` are checked one by one in Laws/. -/
theorem resetIsWf : Obligations.ResetIsWf := by
  unfold Obligations.ResetIsWf
  rw [State.wf, State.storesWf_reset, State.fieldsWf_reset, Bool.and_self]

end Sys2Proof.Proofs

/-! PROOFS. The memory map: the owner of an address, what it answers and what it stores to (20_memory.md R60 to R98). -/

namespace Sys2Proof.Machine

/-! ### The address map, owner by owner -/

/-- The addresses of an owner, down to the registers of the HWIO window (20_memory.md R70, R83). -/
def Target.owns (n : Nat) : Target → Prop
  | .romFixed => n < 0x4000
  | .romWindow => 0x4000 ≤ n ∧ n < 0x8000
  | .vram => 0x8000 ≤ n ∧ n < 0xA000
  | .extRam => 0xA000 ≤ n ∧ n < 0xC000
  | .wramFixed => (0xC000 ≤ n ∧ n < 0xD000) ∨ (0xE000 ≤ n ∧ n < 0xF000)
  | .wramBanked => (0xD000 ≤ n ∧ n < 0xE000) ∨ (0xF000 ≤ n ∧ n < 0xFE00)
  | .oam => 0xFE00 ≤ n ∧ n < 0xFEA0
  | .unowned => (0xFEA0 ≤ n ∧ n < 0xFF00) ∨ n = 0xFF03 ∨ (0xFF08 ≤ n ∧ n ≤ 0xFF0E) ∨ (0xFF56 ≤ n ∧ n ≤ 0xFF67)
      ∨ (0xFF6D ≤ n ∧ n ≤ 0xFF6F) ∨ (0xFF71 ≤ n ∧ n ≤ 0xFF75) ∨ (0xFF78 ≤ n ∧ n ≤ 0xFF7F)
  | .joypad => n = 0xFF00
  | .serial => 0xFF01 ≤ n ∧ n ≤ 0xFF02
  | .div => n = 0xFF04
  | .tima => n = 0xFF05
  | .tma => n = 0xFF06
  | .tac => n = 0xFF07
  | .interruptFlag => n = 0xFF0F
  | .sound => (0xFF10 ≤ n ∧ n ≤ 0xFF3F) ∨ (0xFF76 ≤ n ∧ n ≤ 0xFF77)
  | .gpuHwio => (0xFF40 ≤ n ∧ n ≤ 0xFF4F ∧ n ≠ 0xFF4D) ∨ (0xFF51 ≤ n ∧ n ≤ 0xFF55) ∨ (0xFF68 ≤ n ∧ n ≤ 0xFF6C)
  | .key1 => n = 0xFF4D
  | .bootLatch => n = 0xFF50
  | .svbk => n = 0xFF70
  | .hram => 0xFF80 ≤ n ∧ n < 0xFFFF
  | .interruptEnable => n = 0xFFFF

/-- The map sends an address to the owner that has it: the ranges of the owners are those of the map's tests. -/
theorem route_of_owns {t : Target} {a : Word} (h : t.owns a.toNat) : route a = t := by
  unfold route routeHwio
  dsimp only
  generalize a.toNat = n at h ⊢
  cases t <;> dsimp only [Target.owns] at h
  case wramFixed | wramBanked | sound =>
    rcases h with h | h <;> simp (disch := omega) only [if_pos, if_neg]
  case gpuHwio =>
    rcases h with h | h | h <;> simp (disch := omega) only [if_pos, if_neg]
  case unowned =>
    rcases h with h | h | h | h | h | h | h <;> simp (disch := omega) only [if_pos, if_neg]
  all_goals simp (disch := omega) only [if_pos, if_neg]

/-! ### The cells of an address -/

/-- In a 4 KiB bank that starts at `base`, the offset in the bank. -/
theorem mod_wramBankSize {n base : Nat} (hbase : 0x1000 ∣ base) (hlow : base ≤ n) (hhigh : n < base + 0x1000) :
    n % Config.wramBankSize = n - base := by
  unfold Config.wramBankSize
  omega

theorem State.storedCell_wramFixed (s : State) {a : Word} (h : Target.wramFixed.owns a.toNat) :
    s.storedCell a = some (wramFixedCell a) := by
  simp only [State.storedCell, route_of_owns h]

theorem State.storedCell_wramBanked (s : State) {a : Word} (h : Target.wramBanked.owns a.toNat) :
    s.storedCell a = some (s.wramBankedCell a) := by
  simp only [State.storedCell, route_of_owns h]

theorem State.storedCell_hram (s : State) {a : Word} (h : Target.hram.owns a.toNat) :
    s.storedCell a = some (hramCell a) := by
  simp only [State.storedCell, route_of_owns h]

/-- Outside external RAM, work RAM and high RAM nothing is stored. -/
theorem State.storedCell_eq_none (s : State) {a : Word}
    (h : a.toNat < 0xA000 ∨ (0xFE00 ≤ a.toNat ∧ a.toNat < 0xFF80) ∨ a.toNat = 0xFFFF) : s.storedCell a = none := by
  have hcovers := route_covers a
  unfold State.storedCell
  cases hr : route a <;> rw [hr] at hcovers <;> dsimp only [Target.covers] at hcovers ⊢
  case extRam | wramFixed | wramBanked | hram => omega

/-- What a write at an address changes, a read there shows. -/
theorem State.shownCell_of_storedCell {s : State} {a : Word} {c : Cell} (h : s.storedCell a = some c) :
    s.shownCell a = some c := by
  unfold State.shownCell
  cases hr : route a
  case romFixed | romWindow => simp only [State.storedCell, hr] at h; cases h
  all_goals exact h

theorem State.answer_of_storedCell {s : State} {a : Word} {c : Cell} (hk : s.cheats.get? a.toNat = none)
    (h : s.storedCell a = some c) : s.answer a = .byte (s.readCell c) :=
  State.answer_of_shownCell hk (State.shownCell_of_storedCell h)

theorem State.answer_of_uncheated {s : State} {a : Word} (hk : s.cheats.get? a.toNat = none) :
    s.answer a = s.mapAnswer a := by
  simp only [State.answer, hk]

theorem State.bootShown_iff (s : State) (a : Word) :
    s.bootShown a = true ↔ a.toNat < 0x100 ∧ s.bootEnabled = true ∧ s.boot.isSome = true := by
  simp only [State.bootShown, Bool.and_eq_true, decide_eq_true_eq]
  tauto

theorem State.shownCell_romFixed (s : State) {a : Word} (h : a.toNat < 0x4000) :
    s.shownCell a = some (if s.bootShown a then .boot a.toNat else .rom a.toNat) := by
  simp only [State.shownCell, route_of_owns (t := .romFixed) h, apply_ite some]

theorem Mbc.windowBank_eq (m : Mbc) : m.windowBank = if m.kind = .null then 1 else m.romBank.toNat := by
  unfold Mbc.windowBank
  cases m.kind <;> rfl

theorem State.mapAnswer_romWindow (s : State) {a : Word} (h : Target.romWindow.owns a.toNat) :
    s.mapAnswer a = .byte (s.romByte (s.mbc.windowBank * Config.romBankSize + (a.toNat - 0x4000))) := by
  simp only [State.mapAnswer, route_of_owns h]

/-! ### The echo (20_memory.md R79) -/

/-- The echo of an address in work RAM has the same owner and, the distance being a multiple of the bank size, the same
place in its bank. -/
theorem echo_owner {a : Word} (hlow : 0xE000 ≤ a.toNat) (hhigh : a.toNat < 0xFE00) :
    (a - 0x2000#16).toNat % Config.wramBankSize = a.toNat % Config.wramBankSize ∧
      (route a = .wramFixed ∧ route (a - 0x2000#16) = .wramFixed
        ∨ route a = .wramBanked ∧ route (a - 0x2000#16) = .wramBanked) := by
  have hsub : (a - 0x2000#16).toNat = a.toNat - 0x2000 := by bv_omega
  refine ⟨by rw [hsub, Config.wramBankSize]; omega, ?_⟩
  rcases Nat.lt_or_ge a.toNat 0xF000 with h | h
  · exact .inl ⟨route_of_owns (.inr ⟨hlow, h⟩), route_of_owns (.inl (by omega))⟩
  · exact .inr ⟨route_of_owns (.inr ⟨h, hhigh⟩), route_of_owns (.inl (by omega))⟩

/-! ### A write to a store -/

/-- How many dirty bytes a write of a cell counts (20_memory.md R115, R128). -/
def Cell.dirtied : Cell → Nat
  | .eram _ => 1
  | _ => 0

/-- A write of a cell over the bus: the cell, and the count of dirty bytes. -/
def State.storeCell (s : State) (c : Cell) (v : Byte) : State :=
  { s.writeCell c v with mbc := { s.mbc with dirty := s.mbc.dirty + c.dirtied } }

theorem State.busWrite_eq_storeCell {s : State} {a : Word} {c : Cell} (v : Byte) (h : s.storedCell a = some c) :
    s.busWrite a v = some (s.storeCell c v) := by
  cases c with
  | eram off => exact State.busWrite_of_storedEram v h
  | rom off | boot off | wram off | hram off => exact State.busWrite_of_storedCell v h nofun

@[simp] theorem State.readCell_storeCell (s : State) (c d : Cell) (v : Byte) :
    (s.storeCell c v).readCell d = (s.writeCell c v).readCell d := rfl

@[simp] theorem State.cheats_storeCell (s : State) (c : Cell) (v : Byte) : (s.storeCell c v).cheats = s.cheats := by
  cases c <;> rfl

@[simp] theorem State.answer_storeCell (s : State) (c : Cell) (v : Byte) (b : Word) :
    (s.storeCell c v).answer b = (s.writeCell c v).answer b := by
  cases c <;> rfl

/-- Which cell an address shows does not depend on what the cells hold. -/
@[simp] theorem State.shownCell_storeCell (s : State) (c : Cell) (v : Byte) (b : Word) :
    (s.storeCell c v).shownCell b = s.shownCell b := by
  cases c with
  | boot off =>
    have hshown : (s.storeCell (.boot off) v).bootShown b = s.bootShown b := by
      simp [State.bootShown, State.storeCell, State.writeCell]
    unfold State.shownCell
    rw [hshown]
    rfl
  | rom off | eram off | wram off | hram off => rfl

/-- A byte that the bus stores is what the addresses of its cell read from then on, and nothing else is changed. -/
theorem State.byteStored_storeCell {s : State} {a : Word} {c : Cell} (v : Byte) (hs : s.wf = true)
    (h : s.storedCell a = some c) : s.byteStored (s.storeCell c v) a v := by
  obtain ⟨-, -, hboot⟩ := State.storedCell_inRange h
  have same : (s.storeCell c v).readCell c = v :=
    s.readCell_writeCell_same c v ((State.wf_iff s).mp hs).1 hboot
  intro d hd
  obtain rfl : c = d := Option.some.inj (h.symm.trans hd)
  refine ⟨same, fun d hne => State.readCell_writeCell_other s v hne, fun b hb hk => ?_, fun b hb => ?_⟩
  · rw [State.answer_of_shownCell (c := c) (by simpa using hk) (by simpa using hb), same]
  · rw [State.answer_storeCell, State.answer_writeCell_other v hb]

end Sys2Proof.Machine

namespace Sys2Proof.Proofs

open Sys2Proof.Machine Sys2Proof.Claims

/-- Settles O39: the cell of each owner of stores, its offset counted from the bank's first address. -/
theorem storedCells : Obligations.StoredCells := by
  intro s a v site n bank
  have fixed := s.storedCell_wramFixed (a := a)
  have banked := s.storedCell_wramBanked (a := a)
  unfold wramFixedCell at fixed
  unfold State.wramBankedCell at banked
  refine ⟨fun h h' => ?_, fun h h' => ?_, fun h h' => ?_, fun h h' => ?_, fun h h' => s.storedCell_hram ⟨h, h'⟩,
    s.storedCell_eq_none, fun u hu => State.memWrite_of_some hu⟩
  · rw [fixed (.inl ⟨h, h'⟩), mod_wramBankSize (by decide) h h']
  · rw [banked (.inl ⟨h, h'⟩), mod_wramBankSize (by decide) h h']
    rfl
  · rw [fixed (.inr ⟨h, h'⟩), mod_wramBankSize (by decide) h h']
  · rw [banked (.inr ⟨h, h'⟩), mod_wramBankSize (by decide) h (by omega)]
    rfl

/-- Settles O34: an address that shows a cell reads it, the cells of RAM being those that O39 gives (no value is written
here, so that one is any); the window, the hole and the collaborators by the map. -/
theorem readMap : Obligations.ReadMap := by
  intro s a n overlay
  refine ⟨fun v hk => by rw [State.answer, hk], fun hk => ?_,
    fun v hv => by rw [State.memRead, State.peek_of_answer hv, State.afterRead_of_answer hv]; rfl⟩
  have stored {c : Cell} (h : s.storedCell a = some c) := State.answer_of_storedCell hk h
  obtain ⟨fixed, banked, -, -, high, -⟩ := storedCells s a 0#8 ⟨0#16, 0#8⟩
  have map := State.answer_of_uncheated hk
  refine ⟨fun h => ?_, fun h hn => ?_, fun h h' => ?_, fun h h' => ?_, fun h h' => stored (fixed h h'),
    fun h h' => stored (banked h h'), fun h h' => ?_, fun h h' => ?_, fun h h' => stored (high h h')⟩
  · have hlow : a.toNat < 0x4000 := Nat.lt_of_lt_of_le h.1 (by decide)
    apply State.answer_of_shownCell hk
    rw [s.shownCell_romFixed hlow, if_pos ((s.bootShown_iff a).mpr h)]
  · apply State.answer_of_shownCell hk
    rw [s.shownCell_romFixed h, if_neg (mt (s.bootShown_iff a).mp hn)]
  · rw [map, s.mapAnswer_romWindow ⟨h, h'⟩, Mbc.windowBank_eq]
    rfl
  · rw [map, State.mapAnswer, route_of_owns (t := .vram) ⟨h, h'⟩]
  · rw [map, State.mapAnswer, route_of_owns (t := .oam) ⟨h, h'⟩]
  · rw [map, State.mapAnswer, route_of_owns (t := .unowned) (.inl ⟨h, h'⟩)]
    rfl

/-- Settles O35: the owner of each address gives the answer. -/
theorem hwioReads : Obligations.HwioReads := by
  intro s a hk n
  have owned (t : Target) (h : t.owns n) : route a = t := route_of_owns h
  rw [State.answer_of_uncheated hk]
  unfold State.mapAnswer
  generalize route a = r at owned
  have notCgb (h : s.cgb = false) : ¬s.cgb = true := by simp [h]
  refine ⟨fun h => owned .joypad h ▸ rfl, fun h h' => owned .serial ⟨h, h'⟩ ▸ rfl, fun h => owned .div h ▸ rfl,
    fun h => owned .tima h ▸ rfl, fun h => owned .tma h ▸ rfl, fun h => owned .tac h ▸ rfl,
    fun h => owned .interruptFlag h ▸ rfl, fun h => owned .sound h ▸ rfl, ?gpu,
    fun h hc => owned .key1 h ▸ if_pos hc, fun h => owned .bootLatch h ▸ rfl, fun h hc => owned .svbk h ▸ if_pos hc,
    fun h hc => owned .svbk h ▸ if_neg (notCgb hc), fun h => owned .unowned (.inr h) ▸ rfl,
    fun h => owned .interruptEnable h ▸ rfl⟩
  case gpu =>
    rintro (h | ⟨h, hc⟩ | h)
    · exact owned .gpuHwio (.inl h) ▸ rfl
    · exact owned .key1 h ▸ if_neg (notCgb hc)
    · exact owned .gpuHwio (.inr h) ▸ rfl

/-- Settles O37: an echo has the owner, and the place in its bank, of the address 0x2000 below. -/
theorem echoIsWorkRam : Obligations.EchoIsWorkRam := by
  intro s a v hlow hhigh
  obtain ⟨hplace, ⟨hr, hr'⟩ | ⟨hr, hr'⟩⟩ := echo_owner hlow hhigh
  · simp only [State.mapAnswer, State.busWrite, hr, hr', wramFixedCell, hplace, and_self]
  · simp only [State.mapAnswer, State.busWrite, hr, hr', State.wramBankedCell, hplace, and_self]

/-- Settles O38: the write is the store of the cell that the address names. -/
theorem writeThenRead : Obligations.WriteThenRead := by
  intro s a v c hs hc
  have hu := State.busWrite_eq_storeCell v hc
  have hstored := State.byteStored_storeCell v hs hc
  obtain ⟨-, -, shown, -⟩ := hstored c hc
  obtain ⟨-, hrom, hboot⟩ := State.storedCell_inRange hc
  refine ⟨s.storeCell c v, hu, hstored, ?_⟩
  have reads := shown a (State.shownCell_of_storedCell hc)
  cases c with
  | rom off => exact absurd rfl (hrom off)
  | boot off => exact absurd rfl (hboot off)
  | eram off | wram off | hram off => exact ⟨rfl, rfl, rfl, rfl, rfl, rfl, rfl, rfl, rfl, rfl, rfl, rfl, reads⟩

end Sys2Proof.Proofs

/-! PROOFS. The cartridge: the controllers' registers, external RAM, insertion (20_memory.md R105 to R128,
70_reset_and_hazards.md R510, R511). -/

namespace Sys2Proof.Machine

open Sys2Proof.Claims

/-! ### Commands to the controller (20_memory.md R74, R110 to R127) -/

theorem Mbc.selectRom_eq_none_iff {m : Mbc} {bank : Nat} : m.selectRom bank = none ↔ m.romBanks = 0 := by
  simp [Mbc.selectRom]

/-- The register holds the reduced bank number whole, nine bits being enough for the largest cartridge (R108, R126). -/
theorem Mbc.selectRom_of_banks {m : Mbc} (bank : Nat) (hpos : m.romBanks ≠ 0) (hmax : m.romBanks ≤ 512) :
    ∃ b : BitVec 9, m.selectRom bank = some { m with romBank := b } ∧ b.toNat = bank % m.romBanks := by
  have hlt : bank % m.romBanks < 2 ^ 9 := Nat.lt_of_lt_of_le (Nat.mod_lt _ (Nat.pos_of_ne_zero hpos)) hmax
  exact ⟨_, if_neg hpos, by rw [BitVec.toNat_ofNat, Nat.mod_eq_of_lt hlt]⟩

/-- A command has no value exactly where it reduces a bank number by a count of 0 (R127). -/
theorem Mbc.write_eq_none_iff (m : Mbc) (n : Nat) (v : Byte) :
    m.write n v = none ↔ m.romBanks = 0 ∧ reducesBank m n := by
  unfold Mbc.write reducesBank
  cases m.kind <;> dsimp only
  case null => simp
  case mbc1 | mbc3 | mbc5 =>
    simp only [Mbc.write1, Mbc.write3, Mbc.write5]
    split_ifs <;> grind [Mbc.selectRom_eq_none_iff]

/-- A command selects a bank or leaves the selected bank alone. -/
theorem Mbc.write_romBank {m m' : Mbc} {n : Nat} {v : Byte} (h : m.write n v = some m') :
    (∃ bank, m.selectRom bank = some m') ∨ m'.romBank = m.romBank := by
  unfold Mbc.write Mbc.write1 Mbc.write3 Mbc.write5 at h
  repeat' split at h
  all_goals first
    | exact .inl ⟨_, h⟩
    | (cases h; exact .inr rfl)

/-- One command under the modulo law (R126). -/
theorem Mbc.write_of_banks {m : Mbc} (n : Nat) (v : Byte) (hpos : m.romBanks > 0)
    (hlt : m.romBank.toNat < m.romBanks) :
    ∃ m', m.write n v = some m' ∧ m'.romBank.toNat < m'.romBanks ∧ m'.romBanks = m.romBanks ∧ m'.kind = m.kind := by
  have hsome : m.write n v ≠ none := fun h => hpos.ne' ((m.write_eq_none_iff n v).mp h).1
  obtain ⟨m', hm⟩ := Option.ne_none_iff_exists'.mp hsome
  obtain ⟨hkind, hbanks, -⟩ := Mbc.write_keeps hm
  refine ⟨m', hm, ?_, hbanks, hkind⟩
  rw [hbanks]
  rcases Mbc.write_romBank hm with ⟨bank, h⟩ | h
  · exact (Mbc.selectRom_lt h).2
  · rwa [h]

/-- Below 0x8000 a bus write is the controller's command (R74). -/
theorem State.busWrite_of_rom (s : State) {a : Word} (v : Byte) (h : a.toNat < 0x8000) :
    s.busWrite a v = (s.mbc.write a.toNat v).map fun m => { s with mbc := m } := by
  rcases Nat.lt_or_ge a.toNat 0x4000 with hlow | hlow
  · rw [State.busWrite, route_of_owns (t := .romFixed) hlow]
  · rw [State.busWrite, route_of_owns (t := .romWindow) ⟨hlow, h⟩]

/-- From 0x8000 on the bus accepts every write. -/
theorem State.busWrite_ne_none (s : State) {a : Word} (v : Byte) (h : 0x8000 ≤ a.toNat) : s.busWrite a v ≠ none := by
  have hcovers := route_covers a
  unfold State.busWrite
  cases hr : route a <;> rw [hr] at hcovers <;> dsimp only [Target.covers] at hcovers ⊢
  case romFixed | romWindow => omega
  case extRam => split <;> nofun
  case key1 | bootLatch | svbk => split <;> nofun
  all_goals nofun

theorem reducesBank_lt {m : Mbc} {n : Nat} (h : reducesBank m n) : n < 0x8000 := by
  unfold reducesBank at h
  cases hk : m.kind <;> rw [hk] at h <;> dsimp only at h <;> omega

/-! ### Bits of a bank number -/

/-- New high bits are put above the low `i` bits of a bank number, which stay (R113, R122). -/
theorem shiftLeft_or_and_mask (k i : Nat) (b mask : BitVec 9) (h : mask.toNat = 2 ^ i - 1) :
    k <<< i ||| (b &&& mask).toNat = k * 2 ^ i + b.toNat % 2 ^ i := by
  rw [BitVec.toNat_and, h, Nat.and_two_pow_sub_one_eq_mod,
    ← Nat.shiftLeft_add_eq_or_of_lt (Nat.mod_lt _ (Nat.two_pow_pos i)), Nat.shiftLeft_eq]

/-- The low eight bits of MBC5's bank number are put below bit 8, which stays (R121). -/
theorem and_0x100_or (b : BitVec 9) (v : Byte) :
    (b &&& 0x100#9).toNat ||| v.toNat = b.toNat / 256 * 256 + v.toNat := by
  have hbit : (b &&& 0x100#9).toNat = (b.toNat / 256) <<< 8 := by
    revert b
    decide
  rw [hbit, ← Nat.shiftLeft_add_eq_or_of_lt v.isLt, Nat.shiftLeft_eq]

/-- The low `k` bits of a byte are its remainder (R113, R123). -/
theorem and_mask_eq_ofNat_mod (v : Byte) (k : Nat) (mask : Byte) (h : mask.toNat = 2 ^ k - 1) :
    v &&& mask = BitVec.ofNat 8 (v.toNat % 2 ^ k) := by
  have hlt : v.toNat % 2 ^ k < 2 ^ 8 := Nat.lt_of_le_of_lt (Nat.mod_le _ _) v.isLt
  apply BitVec.eq_of_toNat_eq
  rw [BitVec.toNat_and, h, Nat.and_two_pow_sub_one_eq_mod, BitVec.toNat_ofNat, Nat.mod_eq_of_lt hlt]

/-! ### External RAM (20_memory.md R109, R110, R115, R118, R124) -/

theorem Mbc.extTarget_null {m : Mbc} (n : Nat) (hk : m.kind = .null) : m.extTarget n = .fixed 0x00#8 := by
  simp only [Mbc.extTarget, hk]

theorem Mbc.extTarget_disabled {m : Mbc} (n : Nat) (hk : m.kind ≠ .null) (he : m.ramEnable = false) :
    m.extTarget n = .fixed Config.openBus := by
  unfold Mbc.extTarget
  cases hkind : m.kind
  case null => exact absurd hkind hk
  all_goals simp [he]

theorem Mbc.extTarget_clock {m : Mbc} (n : Nat) (he : m.ramEnable = true) (hk : m.kind = .mbc3)
    (hr : m.rtcSelect = true) : m.extTarget n = .clock m.ramBank := by
  simp [Mbc.extTarget, hk, he, hr]

theorem Mbc.extTarget_enabled {m : Mbc} (n : Nat) (hk : m.kind ≠ .null) (he : m.ramEnable = true)
    (hc : ¬(m.kind = .mbc3 ∧ m.rtcSelect = true)) : m.extTarget n = .ram (m.eramOffset n) := by
  unfold Mbc.extTarget
  cases hkind : m.kind
  case null => exact absurd hkind hk
  case mbc3 => simp [he, show m.rtcSelect = false by simpa [hkind] using hc]
  all_goals simp [he]

/-! ### Insertion (70_reset_and_hazards.md R510, R511) -/

theorem readCell_rom_of_image {s : State} {img : List Byte} (h : s.rom = Memory.ofBytes (some 0#8) 0 img) (off : Nat) :
    s.readCell (.rom off) = img.getD off 0#8 := by
  have hbyte := Memory.getD_ofBytes (some 0#8) 0#8 (by simp) 0 off img
  rw [Nat.zero_add] at hbyte
  simp only [State.readCell, Cell.store, Cell.powerOn, h, hbyte]

/-- A persisted image, cut or filled with zeros to the size of external RAM, byte by byte. -/
theorem getD_resized (ram : List Byte) {size off : Nat} (h : off < size) (d : Byte) :
    (ram.take size ++ List.replicate (size - ram.length) 0#8).getD off d = ram.getD off 0#8 := by
  simp only [List.getD_eq_getElem?_getD]
  rcases Nat.lt_or_ge off ram.length with hin | hout
  · rw [List.getElem?_append_left (by simp; omega), List.getElem?_take_of_lt h]
    simp [hin]
  · rw [List.getElem?_append_right (by simp; omega), List.getElem?_replicate_of_lt (by simp; omega)]
    simp [hout]

theorem readCell_eram_of_image {s : State} {ram : List Byte} (h : s.eram = eramOfImage ram) {off : Nat}
    (hoff : off < Config.eramCapacity) : s.readCell (.eram off) = ram.getD off 0#8 := by
  have hbyte := Memory.getD_ofBytes (some 0xFF#8) 0xFF#8 (by simp) 0 off
    (ram.take Config.eramCapacity ++ List.replicate (Config.eramCapacity - ram.length) 0#8)
  rw [Nat.zero_add, getD_resized ram hoff] at hbyte
  simp only [State.readCell, Cell.store, Cell.powerOn, h, eramOfImage, hbyte]

/-- The machine with an accepted image inserted and reset, external RAM as before. -/
def State.withCartridge (s : State) (img : List Byte) : State :=
  State.resetOp
    { s with
      rom := Memory.ofBytes (some 0#8) 0 img
      mbc := Mbc.atReset (mbcKindOf (imageByte img 0x147)) (romBanksOf (imageByte img 0x148))
      title := (List.range 15).map fun k => imageByte img (0x134 + k)
      cgb := cgbOf (imageByte img 0x143) }

/-- An accepted image is inserted; a saved image replaces external RAM where the controller has one. -/
theorem State.insertCartridge_of_le {img : List Byte} (s : State) (saved : Option (List Byte))
    (h : img.length ≤ Config.romCapacity) :
    ∃ eram, s.insertCartridge img saved = some { s.withCartridge img with eram := eram }
      ∧ ((saved = none ∨ mbcKindOf (imageByte img 0x147) = .null) → eram = s.eram)
      ∧ ∀ ram, saved = some ram → mbcKindOf (imageByte img 0x147) ≠ .null → eram = eramOfImage ram := by
  rw [State.insertCartridge, if_pos h]
  dsimp only
  generalize hkind : mbcKindOf (imageByte img 0x147) = kind
  cases kind <;> cases saved
  case null.none | null.some | mbc1.none | mbc3.none | mbc5.none =>
    exact ⟨s.eram, by rw [State.withCartridge, hkind]; rfl, fun _ => rfl, by simp⟩
  case mbc1.some ram | mbc3.some ram | mbc5.some ram =>
    exact ⟨eramOfImage ram, by rw [State.withCartridge, hkind], by simp,
      fun _ h _ => congrArg eramOfImage (Option.some.inj h)⟩

end Sys2Proof.Machine

namespace Sys2Proof.Proofs

open Sys2Proof.Machine Sys2Proof.Claims

/-- Settles O40: a write below 0x8000 is the controller's command, and only a bank selection by 0 banks has no value. -/
theorem romWritesAreCommands : Obligations.RomWritesAreCommands := by
  intro s a v
  constructor
  · intro u hlow hu
    rw [s.busWrite_of_rom v hlow] at hu
    obtain ⟨m, hm, rfl⟩ := Option.map_eq_some_iff.mp hu
    obtain ⟨hkind, hbanks, hdirty⟩ := Mbc.write_keeps hm
    exact ⟨rfl, hkind, hbanks, hdirty, hm⟩
  · rcases Nat.lt_or_ge a.toNat 0x8000 with hlow | hlow
    · rw [s.busWrite_of_rom v hlow, Option.map_eq_none_iff, Mbc.write_eq_none_iff]
    · exact ⟨fun h => absurd h (s.busWrite_ne_none v hlow), fun h => absurd (reducesBank_lt h.2) (Nat.not_lt.mpr hlow)⟩

/-- Settles O41, range by range. -/
theorem mbc1Registers : Obligations.Mbc1Registers := by
  intro m n v hk
  have hw : m.write n v = m.write1 n v := by simp only [Mbc.write, hk]
  rw [hw, Mbc.write1]
  refine ⟨fun h => if_pos h, fun h h' hpos hmax => ?_, fun h h' hmode => ?_, fun h h' hmode hpos hmax => ?_,
    fun h h' => ?_⟩
  · obtain ⟨b, hb, hval⟩ := Mbc.selectRom_of_banks ((m.romBank &&& 0x60#9).toNat ||| v.toNat % 32) hpos hmax
    refine ⟨b, ?_, by rw [hval, BitVec.toNat_and]; rfl⟩
    rw [if_neg (by omega), if_pos h', hb]
  · rw [if_neg (by omega), if_neg (by omega), if_pos h', if_pos hmode, and_mask_eq_ofNat_mod v 2 0x03#8 rfl]
    rfl
  · obtain ⟨b, hb, hval⟩ := Mbc.selectRom_of_banks ((v.toNat % 4) <<< 5 ||| (m.romBank &&& 0x1F#9).toNat) hpos hmax
    refine ⟨b, ?_, by rw [hval, shiftLeft_or_and_mask _ 5 _ 0x1F#9 rfl]; rfl⟩
    rw [if_neg (by omega), if_neg (by omega), if_pos h', if_neg (by simp [hmode]), hb]
  · rw [if_neg (by omega), if_neg (by omega), if_neg (by omega), BitVec.getLsbD, Nat.testBit_zero]

/-- Settles O42, kind by kind and range by range. -/
theorem otherControllers : Obligations.OtherControllers := by
  intro m n v
  refine ⟨fun hk _ => by simp only [Mbc.write, hk], fun hk => ?mbc3, fun hk => ?mbc5⟩
  case mbc3 =>
    have hw : m.write n v = m.write3 n v := by simp only [Mbc.write, hk]
    rw [hw, Mbc.write3]
    refine ⟨fun h => if_pos h, fun h h' hpos hmax => ?_, fun h h' => ?_, fun h _ => ?_⟩
    · rw [if_neg (by omega), if_pos h']
      exact Mbc.selectRom_of_banks _ hpos hmax
    · rw [if_neg (by omega), if_neg (by omega), if_pos h']
    · rw [if_neg (by omega), if_neg (by omega), if_neg (by omega)]
  case mbc5 =>
    have hw : m.write n v = m.write5 n v := by simp only [Mbc.write, hk]
    rw [hw, Mbc.write5]
    refine ⟨fun h => if_pos h, fun h h' hpos hmax => ?_, fun h h' hpos hmax => ?_, fun h h' => ?_, fun h _ => ?_⟩
    · rw [if_neg (by omega), if_pos h', and_0x100_or]
      exact Mbc.selectRom_of_banks _ hpos hmax
    · rw [if_neg (by omega), if_neg (by omega), if_pos h', shiftLeft_or_and_mask _ 8 _ 0xFF#9 rfl]
      exact Mbc.selectRom_of_banks _ hpos hmax
    · rw [if_neg (by omega), if_neg (by omega), if_neg (by omega), if_pos h', and_mask_eq_ofNat_mod v 4 0x0F#8 rfl]
      rfl
    · rw [if_neg (by omega), if_neg (by omega), if_neg (by omega), if_neg (by omega)]

/-- Settles O43, by induction on the writes. -/
theorem moduloLaw : Obligations.ModuloLaw := by
  intro ws
  induction ws with
  | nil => exact fun m _ hlt => ⟨m, rfl, hlt, rfl, rfl⟩
  | cons w ws ih =>
    intro m hpos hlt
    obtain ⟨m1, hw, hlt1, hbanks1, hkind1⟩ := Mbc.write_of_banks w.1 w.2 hpos hlt
    obtain ⟨m2, hws, hlt2, hbanks2, hkind2⟩ := ih m1 (hbanks1 ▸ hpos) hlt1
    exact ⟨m2, by rw [controllerWrites, hw]; exact hws, hlt2, hbanks2.trans hbanks1, hkind2.trans hkind1⟩

/-- Settles O44: by what stands behind the window. -/
theorem externalRam : Obligations.ExternalRam := by
  intro s a v hlow hhigh off clock
  have owner : route a = .extRam := route_of_owns (t := .extRam) ⟨hlow, hhigh⟩
  refine ⟨fun hk => ?_, fun hk he => ?_, fun hk he hc => ?_, fun he hc => ?_⟩
  · simp only [State.mapAnswer, State.busWrite, owner, Mbc.extTarget_null _ hk, and_self]
  · simp only [State.mapAnswer, State.busWrite, owner, Mbc.extTarget_disabled _ hk he, and_true]
    rfl
  · have target : s.mbc.extTarget a.toNat = .ram off := Mbc.extTarget_enabled _ hk he hc
    have cell : s.storedCell a = some (.eram off) := by simp only [State.storedCell, owner, target]
    refine ⟨by simp only [State.mapAnswer, owner, target], cell, _, State.busWrite_eq_storeCell v cell, rfl,
      fun hs => ?_⟩
    obtain ⟨same, others, -, -⟩ := State.byteStored_storeCell v hs cell _ cell
    exact ⟨same, others⟩
  · simp only [State.mapAnswer, State.busWrite, owner, Mbc.extTarget_clock _ he hc.1 hc.2, and_self]

/-- Settles O52: the image and the header's fields, then external RAM by whether there is a saved image for it; the two
header tables byte by byte. -/
theorem insertCartridge : Obligations.InsertCartridge := by
  refine ⟨fun s img saved h => if_neg (Nat.not_le.mpr h), fun s img saved h => ?_, by decide, by decide⟩
  obtain ⟨eram, heq, kept, loaded⟩ := s.insertCartridge_of_le saved h
  exact ⟨_, heq, readCell_rom_of_image rfl, rfl, rfl, rfl, rfl, kept,
    fun ram hram hkind off hoff => readCell_eram_of_image (loaded ram hram hkind) hoff⟩

end Sys2Proof.Proofs

/-! PROOFS. The store that the bus does not accept (20_memory.md R127; 60_exceptions.md R400, R401). -/

namespace Sys2Proof.Machine

open Sys2Proof.Claims

/-! ### Accesses of states that differ in registers, cycles and draws -/

/-- The bus does not look at the registers, the cycles and the draws. -/
theorem State.busWrite_quiet (s : State) (a : Word) (v : Byte) :
    s.quiet.busWrite a v = (s.busWrite a v).map State.quiet := by
  unfold State.busWrite
  cases route a
  case romFixed | romWindow => simp only [Option.map_map]; rfl
  case extRam =>
    change (match s.mbc.extTarget a.toNat with | .ram off => _ | .fixed _ => _ | .clock _ => _) = _
    cases s.mbc.extTarget a.toNat <;> rfl
  case key1 | svbk =>
    change (if s.cgb = true then _ else _) = _
    split <;> rfl
  case bootLatch => cases v.getLsbD 0 <;> rfl
  all_goals rfl

section Quiet

variable {s t : State} {a : Word} {v : Byte} (h : t.quiet = s.quiet)

include h

theorem State.map_quiet_busWrite : (t.busWrite a v).map State.quiet = (s.busWrite a v).map State.quiet := by
  rw [← State.busWrite_quiet, h, State.busWrite_quiet]

theorem State.busWrite_none_of_quiet (hn : s.busWrite a v = none) : t.busWrite a v = none := by
  have hmap := State.map_quiet_busWrite h (a := a) (v := v)
  rwa [hn, Option.map_none, Option.map_eq_none_iff] at hmap

theorem State.busWrite_some_of_quiet {u : State} (hu : s.busWrite a v = some u) :
    ∃ w, t.busWrite a v = some w ∧ w.quiet = u.quiet ∧ w.regs = t.regs := by
  have hmap := State.map_quiet_busWrite h (a := a) (v := v)
  rw [hu, Option.map_some, Option.map_eq_some_iff] at hmap
  obtain ⟨w, hw, hq⟩ := hmap
  exact ⟨w, hw, hq, (State.busWrite_keeps hw).1⟩

end Quiet

theorem State.readCell_of_quiet {s t : State} (h : t.quiet = s.quiet) (c : Cell) : t.readCell c = s.readCell c :=
  congrArg (fun u => u.readCell c) h

theorem State.sameMemory_of_quiet {s t : State} (h : t.quiet = s.quiet) : s.sameMemory t :=
  fun a => congrArg (fun u => u.answer a) h

@[simp] theorem State.quiet_fetched (s : State) (i : Instr) : (s.fetched i).quiet = s.quiet := rfl

/-! ### Instructions that raise -/

/-- `i` raises BankCountZero for the write of `v` at `a`, in a state that is `u` but for registers, cycles, draws and
the record; PC is past the instruction. -/
def RaisesAt (i : Instr) (s u : State) (a : Word) (v : Byte) : Prop :=
  ∃ w : State, exec i (s.fetched i) = .next (w.raise ⟨.bankCountZero, s.regs.pc, opcodeOf i, some (a, v)⟩)
    ∧ w.quiet = u.quiet ∧ w.regs.pc = s.regs.pc + BitVec.ofNat 16 (encode i).length

/-- What the claim says of an instruction that raises. -/
theorem RaisesAt.outcome {i : Instr} {s u : State} {a : Word} {v : Byte} (h : RaisesAt i s u a v) :
    ∃ t, exec i (s.fetched i) = .next t
      ∧ t.fault = some ⟨.bankCountZero, s.regs.pc, opcodeOf i, some (a, v)⟩
      ∧ t.regs.pc = s.regs.pc + BitVec.ofNat 16 (encode i).length
      ∧ t.mbc = u.mbc ∧ (∀ c, t.readCell c = u.readCell c) ∧ u.sameMemory t
      ∧ t.ime = u.ime ∧ t.halted = u.halted ∧ t.totalI = u.totalI := by
  obtain ⟨w, he, hq, hpc⟩ := h
  have same {α : Type} (view : State → α) : view w.quiet = view u.quiet := congrArg view hq
  exact ⟨_, he, rfl, hpc, same State.mbc, State.readCell_of_quiet (t := w) hq, State.sameMemory_of_quiet (t := w) hq,
    same State.ime, same State.halted, same State.totalI⟩

/-! An instruction's course of actions is a store or two, and `k`, what it would do after; before, it has brought the
state to `w`. -/

section Courses

variable {i : Instr} {s u w : State} {a : Word} {v : Byte} {x : Word} (k : Flow → Flow)

/-- The only store is not accepted, or the first. -/
theorem RaisesAt.of_memWrite (hn : s.busWrite a v = none)
    (he : exec i (s.fetched i) = (k (w.memWrite (s.site i) a v)).outcome)
    (hk : ∀ t, k (.raised t) = .raised t := by intro; rfl) (hq : w.quiet = s.quiet := by simp)
    (hpc : w.regs.pc = s.regs.pc + BitVec.ofNat 16 (encode i).length := by rfl) : RaisesAt i s s a v := by
  rw [State.memWrite_of_none (State.busWrite_none_of_quiet hq hn), hk] at he
  exact ⟨w, he, hq, hpc⟩

/-- The second byte of a word is not accepted. -/
theorem RaisesAt.of_memWrite16 (h1 : s.busWrite a (loByte x) = some u)
    (h2 : u.busWrite (a + 1#16) (hiByte x) = none)
    (he : exec i (s.fetched i) = (w.memWrite16 (s.site i) a x).outcome) (hq : w.quiet = s.quiet := by simp)
    (hpc : w.regs.pc = s.regs.pc + BitVec.ofNat 16 (encode i).length := by rfl) :
    RaisesAt i s u (a + 1#16) (hiByte x) := by
  obtain ⟨t, ht, htq, htr⟩ := State.busWrite_some_of_quiet hq h1
  rw [State.memWrite16, State.memWrite_of_some ht, Flow.andThen_ok,
    State.memWrite_of_none (State.busWrite_none_of_quiet (t := t.spend 4) htq h2)] at he
  exact ⟨t.spend 4, he, htq, by rw [State.spend_regs, htr, hpc]⟩

/-- The first byte of a push is not accepted. -/
theorem RaisesAt.of_push (hn : s.busWrite (s.regs.sp - 1#16) (hiByte x) = none)
    (he : exec i (s.fetched i) = (k (w.push16 (s.site i) x)).outcome)
    (hk : ∀ t, k (.raised t) = .raised t := by intro; rfl) (hq : w.quiet = s.quiet := by simp)
    (hsp : w.regs.sp = s.regs.sp := by rfl)
    (hpc : w.regs.pc = s.regs.pc + BitVec.ofNat 16 (encode i).length := by rfl) :
    RaisesAt i s s (s.regs.sp - 1#16) (hiByte x) := by
  have hn' := State.busWrite_none_of_quiet hq hn
  rw [← hsp] at hn'
  rw [State.push16_of_none hn', hk, hsp] at he
  exact ⟨_, he, hq, hpc⟩

/-- The second byte of a push is not accepted. -/
theorem RaisesAt.of_push_second (h1 : s.busWrite (s.regs.sp - 1#16) (hiByte x) = some u)
    (h2 : u.busWrite (s.regs.sp - 2#16) (loByte x) = none)
    (he : exec i (s.fetched i) = (k (w.push16 (s.site i) x)).outcome)
    (hk : ∀ t, k (.raised t) = .raised t := by intro; rfl) (hq : w.quiet = s.quiet := by simp)
    (hsp : w.regs.sp = s.regs.sp := by rfl)
    (hpc : w.regs.pc = s.regs.pc + BitVec.ofNat 16 (encode i).length := by rfl) :
    RaisesAt i s u (s.regs.sp - 2#16) (loByte x) := by
  obtain ⟨t, ht, htq, -⟩ := State.busWrite_some_of_quiet hq h1
  have h2' := State.busWrite_none_of_quiet htq h2
  rw [← hsp] at ht h2'
  rw [State.push16_of_some_none ht h2', hk, hsp] at he
  exact ⟨_, he, htq, hpc⟩

end Courses

theorem firstStore_callCc (s : State) (cc : Cond) (t : Word) : firstStore s (.callCc cc t) =
    if s.regs.f.holds cc then some (s.regs.sp - 1#16, hiByte (s.regs.pc + 3#16)) else none := rfl

theorem secondStore_callCc (s : State) (cc : Cond) (t : Word) : secondStore s (.callCc cc t) =
    if s.regs.f.holds cc then some (s.regs.sp - 2#16, loByte (s.regs.pc + 3#16)) else none := rfl

theorem page_eq_highPage : ∀ n : Byte, page n = highPage n := by decide

/-- Every instruction whose first store is not accepted raises. -/
theorem raisesAt_firstStore {i : Instr} {s : State} {a : Word} {v : Byte} (h : firstStore s i = some (a, v))
    (hn : s.busWrite a v = none) : RaisesAt i s s a v := by
  cases i
  case ldHlR | ldHlN | ldBcA | ldDeA | ldA16A | rlcHl | rrcHl | rlHl | rrHl | slaHl | sraHl | swapHl | srlHl | resHl
      | setHl =>
    cases h
    exact .of_memWrite id hn rfl
  case ldhA8A | ldhCA =>
    cases h
    rw [page_eq_highPage] at hn ⊢
    exact .of_memWrite id hn rfl
  case ldHlIncA | ldHlDecA | incHl | decHl =>
    cases h
    exact .of_memWrite (·.thenDo _) hn rfl
  case ldA16Sp =>
    cases h
    exact .of_memWrite (·.andThen _) hn rfl
  case pushRr | pushAf =>
    cases h
    exact .of_push id hn rfl
  case callA16 | rst =>
    cases h
    exact .of_push (·.thenDo _) hn rfl
  case callCc cc _ =>
    rw [firstStore_callCc] at h
    split at h
    case isFalse => cases h
    case isTrue hc =>
      cases h
      exact .of_push (·.thenDo _) hn (if_pos hc)
  all_goals cases h

/-- Every instruction whose first store is accepted and whose second is not raises. -/
theorem raisesAt_secondStore {i : Instr} {s u : State} {a b : Word} {v w : Byte} (h : firstStore s i = some (a, v))
    (h' : secondStore s i = some (b, w)) (h1 : s.busWrite a v = some u) (h2 : u.busWrite b w = none) :
    RaisesAt i s u b w := by
  cases i
  case ldA16Sp =>
    cases h
    cases h'
    exact .of_memWrite16 h1 h2 rfl
  case pushRr | pushAf =>
    cases h
    cases h'
    exact .of_push_second id h1 h2 rfl
  case callA16 | rst =>
    cases h
    cases h'
    exact .of_push_second (·.thenDo _) h1 h2 rfl
  case callCc cc _ =>
    rw [firstStore_callCc] at h
    split at h
    case isFalse => cases h
    case isTrue hc =>
      rw [secondStore_callCc, if_pos hc] at h'
      cases h
      cases h'
      exact .of_push_second (·.thenDo _) h1 h2 (if_pos hc)
  all_goals cases h'

end Sys2Proof.Machine

namespace Sys2Proof.Proofs

open Sys2Proof.Machine Sys2Proof.Claims

/-- Settles O33: by the instruction that stores, for the first store and for the second. -/
theorem bankCountZeroRaises : Obligations.BankCountZeroRaises := by
  refine ⟨fun i s a v h hn => (raisesAt_firstStore h hn).outcome, fun i s u a b v w h h' h1 h2 => ?_⟩
  obtain ⟨-, hime, -, hhalted, -, -, -, htotal, -⟩ := State.busWrite_keeps h1
  rw [← hime, ← hhalted, ← htotal]
  exact (raisesAt_secondStore h h' h1 h2).outcome

end Sys2Proof.Proofs

/-! PROOFS. The encoder and the decoder undo each other (30_encoding.md R140 to R155), and what follows for the invalid
opcodes (R153, R333) and the byte 0xCB (R146). -/

namespace Sys2Proof

open Sys2Proof.Machine

/-! ### Fields, selectors and immediate words (R141, R147, R150) -/

/-- A case for each value of a three-bit field. -/
theorem threeBits {motive : BitVec 3 → Prop} (b000 : motive 0#3) (b001 : motive 1#3) (b010 : motive 2#3)
    (b011 : motive 3#3) (b100 : motive 4#3) (b101 : motive 5#3) (b110 : motive 6#3) (b111 : motive 7#3) (y : BitVec 3) :
    motive y := by
  have values : ∀ y : BitVec 3, y = 0#3 ∨ y = 1#3 ∨ y = 2#3 ∨ y = 3#3 ∨ y = 4#3 ∨ y = 5#3 ∨ y = 6#3 ∨ y = 7#3 := by
    decide
  obtain rfl | rfl | rfl | rfl | rfl | rfl | rfl | rfl := values y <;> assumption

@[simp] theorem extractLsb'_opBit : ∀ (x : BitVec 2) (y z : BitVec 3), (opBit x y z).extractLsb' 6 2 = x
    ∧ (opBit x y z).extractLsb' 3 3 = y ∧ (opBit x y z).extractLsb' 0 3 = z := by decide

/-- A byte is its fields. -/
theorem opBit_extractLsb' : ∀ b : Byte, opBit (b.extractLsb' 6 2) (b.extractLsb' 3 3) (b.extractLsb' 0 3) = b := by
  decide

/-- A byte is in one of four blocks, by its upper two bits. -/
theorem block_cases (b : Byte) :
    ∃ y z, b = opBit 0#2 y z ∨ b = opBit 1#2 y z ∨ b = opBit 2#2 y z ∨ b = opBit 3#2 y z := by
  have values : ∀ x : BitVec 2, x = 0#2 ∨ x = 1#2 ∨ x = 2#2 ∨ x = 3#2 := by decide
  refine ⟨b.extractLsb' 3 3, b.extractLsb' 0 3, ?_⟩
  have hb := opBit_extractLsb' b
  obtain hx | hx | hx | hx := values (b.extractLsb' 6 2) <;> rw [hx] at hb <;> simp [hb]

@[simp] theorem Reg8.ofCode_code (r : Reg8) : Reg8.ofCode r.code = some r := by cases r <;> rfl

@[simp] theorem Reg8.ofCode_six : Reg8.ofCode 6#3 = none := rfl

@[simp] theorem immWord_loByte_hiByte (a : Word) : immWord (loByte a) (hiByte a) = a :=
  BitVec.extractLsb'_append_extractLsb' (w := 8) (len := 8)

@[simp] theorem loByte_immWord (b1 b2 : Byte) : loByte (immWord b1 b2) = b1 :=
  BitVec.extractLsb'_append_eq_right

@[simp] theorem hiByte_immWord (b1 b2 : Byte) : hiByte (immWord b1 b2) = b2 :=
  BitVec.extractLsb'_append_eq_left

/-! ### What the decoder takes (R140, R143) -/

/-- Of an opcode and two bytes, those that the opcode's length asks for. -/
def instrBytes (op b1 b2 : Byte) : List Byte := [op, b1, b2].take (lengthOf op)

/-- Decoding takes the bytes that the first one's length asks for, and no more. -/
theorem decode_consumes (op b1 b2 : Byte) (rest : List Byte) :
    ∃ i, decode (op :: b1 :: b2 :: rest) = .ok (i, (op :: b1 :: b2 :: rest).drop (lengthOf op)) := by
  simp only [decode]
  obtain h | h | h := lengthOf_cases op <;> rw [h]
  · exact ⟨decodeOp op 0#8 0#8, rfl⟩
  · exact ⟨decodeOp op b1 0#8, rfl⟩
  · exact ⟨decodeOp op b1 b2, rfl⟩

/-- What decoding accepts is the bytes of an instruction and the rest. -/
theorem decode_eq_ok {bytes rest : List Byte} {i : Instr} (h : decode bytes = .ok (i, rest)) :
    ∃ op b1 b2, i = decodeOp op b1 b2 ∧ bytes = instrBytes op b1 b2 ++ rest := by
  unfold instrBytes
  unfold decode at h
  split at h
  case h_1 => cases h
  case h_2 op tail =>
    obtain hlen | hlen | hlen := lengthOf_cases op <;> rw [hlen] at h
    · cases h
      exact ⟨op, 0#8, 0#8, rfl, by rw [hlen]; rfl⟩
    · match tail, h with
      | b1 :: tail, h =>
        cases h
        exact ⟨op, b1, 0#8, rfl, by rw [hlen]; rfl⟩
    · match tail, h with
      | b1 :: b2 :: tail, h =>
        cases h
        exact ⟨op, b1, b2, rfl, by rw [hlen]; rfl⟩

@[simp] theorem decode_0xCB (op2 : Byte) (rest : List Byte) :
    decode (0xCB#8 :: op2 :: rest) = .ok (decodeCb op2, rest) := rfl

/-! ### The base page by its blocks (R148, R149, R151) -/

theorem decodeBase_block0 (y z : BitVec 3) (b1 b2 : Byte) :
    decodeBase (opBit 0#2 y z) b1 b2 = decodeBlock0 y z b1 b2 := by simp [decodeBase]

theorem decodeBase_block1 (y z : BitVec 3) (b1 b2 : Byte) :
    decodeBase (opBit 1#2 y z) b1 b2 = decodeBlock1 y z := by simp [decodeBase]

theorem decodeBase_block2 (y z : BitVec 3) (b1 b2 : Byte) :
    decodeBase (opBit 2#2 y z) b1 b2 = decodeBlock2 y z := by simp [decodeBase]

theorem decodeBase_block3 (y z : BitVec 3) (b1 b2 : Byte) :
    decodeBase (opBit 3#2 y z) b1 b2 = decodeBlock3 y z b1 b2 := by simp [decodeBase]

/-- An opcode of length 1 is encoded alone. -/
theorem instrBytes_of_lengthOf_one {op : Byte} (b1 b2 : Byte) (h : lengthOf op = 1) : instrBytes op b1 b2 = [op] := by
  rw [instrBytes, h, List.take_succ_cons, List.take_zero]

/-- An instruction with an immediate word is encoded as its opcode and the word's bytes. -/
theorem word_bytes (op b1 b2 : Byte) : [op, loByte (immWord b1 b2), hiByte (immWord b1 b2)] = [op, b1, b2] := by
  rw [loByte_immWord, hiByte_immWord]

theorem encode_decodeBlock0 (y z : BitVec 3) (b1 b2 : Byte) :
    encode (decodeBlock0 y z b1 b2) = instrBytes (opBit 0#2 y z) b1 b2 := by
  cases z using threeBits
  case b000 =>
    cases y using threeBits
    case b001 => exact word_bytes _ b1 b2
    all_goals rfl
  case b001 =>
    cases y using threeBits
    case b000 | b010 | b100 | b110 => exact word_bytes _ b1 b2
    all_goals rfl
  all_goals cases y using threeBits <;> rfl

theorem encode_decodeBlock1 : ∀ y z : BitVec 3,
    encode (decodeBlock1 y z) = [opBit 1#2 y z] ∧ lengthOf (opBit 1#2 y z) = 1 := by decide

theorem encode_decodeBlock2 : ∀ y z : BitVec 3,
    encode (decodeBlock2 y z) = [opBit 2#2 y z] ∧ lengthOf (opBit 2#2 y z) = 1 := by decide

theorem encode_decodeBlock3 (y z : BitVec 3) (b1 b2 : Byte) :
    encode (decodeBlock3 y z b1 b2) = instrBytes (opBit 3#2 y z) b1 b2 := by
  cases z using threeBits
  case b010 =>
    cases y using threeBits
    case b100 | b110 => rfl
    all_goals exact word_bytes _ b1 b2
  case b011 =>
    cases y using threeBits
    case b000 => exact word_bytes _ b1 b2
    all_goals rfl
  case b100 =>
    cases y using threeBits
    case b000 | b001 | b010 | b011 => exact word_bytes _ b1 b2
    all_goals rfl
  case b101 =>
    cases y using threeBits
    case b001 => exact word_bytes _ b1 b2
    all_goals rfl
  all_goals cases y using threeBits <;> rfl

theorem encode_decodeBase (op b1 b2 : Byte) : encode (decodeBase op b1 b2) = instrBytes op b1 b2 := by
  obtain ⟨y, z, rfl | rfl | rfl | rfl⟩ := block_cases op
  · rw [decodeBase_block0, encode_decodeBlock0]
  · obtain ⟨hbytes, hlen⟩ := encode_decodeBlock1 y z
    rw [decodeBase_block1, hbytes, instrBytes_of_lengthOf_one b1 b2 hlen]
  · obtain ⟨hbytes, hlen⟩ := encode_decodeBlock2 y z
    rw [decodeBase_block2, hbytes, instrBytes_of_lengthOf_one b1 b2 hlen]
  · rw [decodeBase_block3, encode_decodeBlock3]

/-! ### Whole instructions, the CB page's among them (R146, R152) -/

theorem encode_decodeCb : ∀ op2 : Byte, encode (decodeCb op2) = [0xCB#8, op2] := by decide

/-- A decoded instruction is encoded as the bytes it was decoded from. -/
theorem encode_decodeOp (op b1 b2 : Byte) : encode (decodeOp op b1 b2) = instrBytes op b1 b2 := by
  rw [← encode_decodeBase]
  unfold decodeOp
  split
  case h_1 op2 hprefix => rw [hprefix, encode_decodeCb, encode]
  case h_2 => rfl

theorem opcodeOf_decodeOp (op b1 b2 : Byte) : opcodeOf (decodeOp op b1 b2) = op := by
  rw [opcodeOf, encode_decodeOp, instrBytes]
  obtain h | h | h := lengthOf_cases op <;> rw [h] <;> rfl

theorem wellFormed_decodeOp (op b1 b2 : Byte) : (decodeOp op b1 b2).wellFormed = true := by
  unfold decodeOp
  split
  case h_1 op2 _ => rw [Instr.wellFormed, (decodeCb_kind op2).1, Bool.not_false]
  case h_2 hprefix =>
    unfold Instr.wellFormed Instr.isPrefix
    split
    case h_1 op2 h => exact absurd h (hprefix op2)
    case h_2 => rfl

/-- The word of an instruction is that of its two bytes. -/
theorem decode_of_immWord {bytes rest : List Byte} {a : Word} (f : Word → Instr)
    (h : decode bytes = .ok (f (immWord (loByte a) (hiByte a)), rest)) : decode bytes = .ok (f a, rest) := by
  rwa [immWord_loByte_hiByte] at h

/-- Decoding undoes encoding. Selectors are split by value; an immediate byte is carried over as it stands, an immediate
word by its two bytes, and the bit operations by their fields. -/
theorem decode_encode {i : Instr} (rest : List Byte) (h : i.wellFormed = true) :
    decode (encode i ++ rest) = .ok (i, rest) := by
  cases i
  case ldRR dst src => cases dst <;> cases src <;> rfl
  case ldRHl r | ldHlR r | addR r | adcR r | subR r | sbcR r | andR r | xorR r | orR r | cpR r | incR r | decR r
      | ldRN r _ | rlcR r | rrcR r | rlR r | rrR r | slaR r | sraR r | swapR r | srlR r => cases r <;> rfl
  case addHlRr rr | incRr rr | decRr rr | popRr rr | pushRr rr => cases rr <;> rfl
  case jrCc cc _ | retCc cc => cases cc <;> rfl
  case rst t => cases t using threeBits <;> rfl
  case bitR | bitHl | resR | resHl | setR | setHl => simp [encode, decodeCb]
  case ldA16Sp => exact decode_of_immWord .ldA16Sp rfl
  case ldA16A => exact decode_of_immWord .ldA16A rfl
  case ldAA16 => exact decode_of_immWord .ldAA16 rfl
  case jpA16 => exact decode_of_immWord .jpA16 rfl
  case callA16 => exact decode_of_immWord .callA16 rfl
  case ldRrN16 rr _ => exact decode_of_immWord (.ldRrN16 rr) (by cases rr <;> rfl)
  case jpCc cc _ => exact decode_of_immWord (.jpCc cc) (by cases cc <;> rfl)
  case callCc cc _ => exact decode_of_immWord (.callCc cc) (by cases cc <;> rfl)
  case prefixCb => cases h
  all_goals rfl

end Sys2Proof

namespace Sys2Proof.Machine

open Sys2Proof.Claims

/-! ### The eleven invalid opcodes (R153, R333) -/

/-- What the table of the invalid opcodes says of a row, with the row's meaning. -/
structure IsInvalidRow (b : Byte) (i : Instr) : Prop where
  opcode : opcodeOf i = b
  length : lengthOf b = 1
  decoded : ∀ b1 b2, decodeOp b b1 b2 = i
  raises : ∀ s, exec i s = .next (s.raise ⟨.invalidOpcode, s.regs.pc, b, none⟩)

theorem isInvalidRow_of_mem {b : Byte} {i : Instr} (h : (b, i) ∈ invalidRows) : IsInvalidRow b i := by
  simp only [invalidRows, List.mem_cons, Prod.mk.injEq, List.not_mem_nil, or_false] at h
  obtain ⟨rfl, rfl⟩ | ⟨rfl, rfl⟩ | ⟨rfl, rfl⟩ | ⟨rfl, rfl⟩ | ⟨rfl, rfl⟩ | ⟨rfl, rfl⟩ | ⟨rfl, rfl⟩ | ⟨rfl, rfl⟩ |
    ⟨rfl, rfl⟩ | ⟨rfl, rfl⟩ | ⟨rfl, rfl⟩ := h <;>
    exact ⟨rfl, rfl, fun _ _ => rfl, fun _ => rfl⟩

/-- An instruction of one byte is fetched by one bus read (R143). -/
theorem State.fetch_of_lengthOf_one {s : State} (h : lengthOf (s.peek s.regs.pc) = 1) :
    s.fetch = (decodeOp (s.peek s.regs.pc) 0#8 0#8, s.afterRead s.regs.pc) := by
  simp only [State.fetch, State.memRead, h, State.fetchBytes]

/-- A step that fetches an invalid opcode ends where its meaning raises (R400, R430). -/
theorem step_of_isInvalidRow {s : State} {b : Byte} {i : Instr} (h : IsInvalidRow b i)
    (hfetch : s.takeArrivals.canFetch) (hpeek : s.begun.peek s.begun.regs.pc = b) :
    step s = .next ((s.begun.afterRead s.begun.regs.pc).raise ⟨.invalidOpcode, s.begun.regs.pc, b, none⟩) := by
  obtain ⟨hfault, hhalted, hbreak⟩ := hfetch
  have hfault' : s.fault = none := by
    obtain ⟨req, later, ha⟩ := s.takeArrivals_frame
    rwa [ha] at hfault
  have hinstr : s.begun.fetch = (i, s.begun.afterRead s.begun.regs.pc) := by
    rw [State.fetch_of_lengthOf_one (by rw [hpeek, h.length]), hpeek, h.decoded]
  have hraise : exec s.begun.fetch.1 s.begun.fetch.2 =
      .next ((s.begun.afterRead s.begun.regs.pc).raise ⟨.invalidOpcode, s.begun.regs.pc, b, none⟩) := by
    rw [hinstr]
    exact h.raises _
  exact step_of_cases hfault' (.inr (.inr ⟨hbreak, hhalted, _, hraise, rfl⟩))

end Sys2Proof.Machine

namespace Sys2Proof.Proofs

open Sys2Proof.Machine Sys2Proof.Claims

/-- Settles O1: by the instruction. -/
theorem decodeOfEncode : Obligations.DecodeOfEncode := fun _ rest h => decode_encode rest h

/-- Settles O2: the decoded instruction is encoded as the bytes that decoding took. -/
theorem encodeOfDecode : Obligations.EncodeOfDecode := by
  intro bytes rest i h
  obtain ⟨op, b1, b2, rfl, rfl⟩ := decode_eq_ok h
  exact ⟨wellFormed_decodeOp op b1 b2, by rw [encode_decodeOp]⟩

/-- Settles O5: an opcode that decodes to an invalid instruction is that instruction's own, since decoding loses no
opcode; the step is the fetch of one byte and the raise. -/
theorem invalidOpcodes : Obligations.InvalidOpcodes := by
  refine ⟨fun op b1 b2 => ⟨?_, ?_⟩, fun s b i h => (isInvalidRow_of_mem h).raises s, ?_⟩
  · rintro ⟨b, h⟩
    obtain rfl : op = b := (opcodeOf_decodeOp op b1 b2).symm.trans (isInvalidRow_of_mem h).opcode
    exact List.mem_map_of_mem h
  · intro h
    obtain ⟨⟨b, i⟩, hrow, rfl⟩ := List.mem_map.mp h
    exact ⟨b, by rwa [(isInvalidRow_of_mem hrow).decoded]⟩
  · intro s₀ b i h s hfetch hpeek
    exact step_of_isInvalidRow (isInvalidRow_of_mem h) hfetch hpeek

/-- Settles O31: the CB page's rows are encoded with 0xCB before them, and 0xCB runs the row of its second byte. -/
theorem prefixRunsCbPage : Obligations.PrefixRunsCbPage := by
  intro s op2
  obtain ⟨t, ht, -, -⟩ := exec_store (.prefixCb op2) s rfl
  exact ⟨encode_decodeCb op2, exec_prefixCb op2 s, t, ht⟩

/-- Settles O3: the decoder and the selector tables evaluate to what the spec writes out. -/
theorem wordsWrittenOut : Obligations.WordsWrittenOut :=
  ⟨rfl, rfl, rfl, rfl, rfl, rfl, rfl, rfl, rfl, rfl, rfl, rfl, rfl, rfl, rfl, rfl, rfl⟩

/-- Settles O4: the table opcode by opcode, and what decoding takes. -/
theorem lengthTable : Obligations.LengthTable := ⟨by decide, by decide, decode_consumes⟩

end Sys2Proof.Proofs

/-! PROOFS. The 8-bit loads and stores (40_load8.md R200 to R218): what the register updates leave, and the rules that
take an instruction's meaning after the fetch to the claims' forms of a run. -/

namespace Sys2Proof.Machine

open Sys2Proof.Claims

/-! ### What a register update leaves -/

theorem Regs.keep.trans {r t u : Regs} {first second : List Reg8} (h : r.keep t first) (h' : t.keep u second) :
    r.keep u (first ++ second) := by
  intro x hx
  rw [List.mem_append, not_or] at hx
  rw [h' x hx.2, h x hx.1]

section Registers

variable (r : Regs)

theorem Regs.keep_pc (p : Word) : r.keep { r with pc := p } [] := by
  intro x _
  cases x <;> rfl

theorem Regs.keep_set (x : Reg8) (v : Byte) : r.keep (r.set x v) [x] :=
  fun _ hy => Regs.get_set_other r v (List.ne_of_not_mem_cons hy)

theorem Regs.keep_setHl (w : Word) : r.keep (r.setHl w) [.h, .l] := by
  intro x hx
  cases x with
  | h | l => simp at hx
  | a | b | c | d | e => rfl

@[simp] theorem Regs.hl_setHl (w : Word) : (r.setHl w).hl = w := r.get16_set16_same .hl w

/-- The registers after a load: PC past the instruction, then the destination written. -/
theorem setsReg_set (x : Reg8) (v : Byte) (len : Word) :
    setsReg x v len r ({ r with pc := r.pc + len }.set x v) :=
  ⟨Regs.get_set_same _ x v, (r.keep_pc _).trans (Regs.keep_set _ x v), Regs.set_f _ x v, Regs.set_sp _ x v,
    Regs.set_pc _ x v⟩

end Registers

/-- A byte that the bus accepts is stored, if the map sends its address to a store; registers, draws and cycles do not
matter. -/
theorem State.byteStored_of_busWrite {s u t : State} {a : Word} {v : Byte} {k n : Nat} (hs : s.wf = true)
    (hu : s.busWrite a v = some u) (ht : u.butRegs t k n) : s.byteStored t a v := by
  intro c hc
  obtain rfl : u = s.storeCell c v := Option.some.inj (hu.symm.trans (State.busWrite_eq_storeCell v hc))
  rw [ht]
  exact State.byteStored_storeCell v hs hc c hc

/-! ### A course of actions after the fetch

`bytes` and `cycles` are those of the claim. The fetch has spent 4 cycles for each byte; the rest is the instruction's
own. -/

section Courses

variable {s : State} {i : Instr} {bytes : List Byte} {a : Word} {cycles : Nat} {r : Regs}

/-- No data access: the registers and `m` cycles. -/
theorem runsOnRegs_of_exec {post : Regs → Regs → Prop} (m : Nat) (hbytes : encode i = bytes)
    (hexec : exec i (s.fetched i) = .next (((s.fetched i).setRegs r).spend m)) (hpost : post s.regs r)
    (hcycles : 4 * bytes.length + m = cycles := by rfl) : runsOnRegs s i bytes cycles post := by
  subst hbytes hcycles
  refine ⟨rfl, _, hexec, ?_, fun _ => rfl, hpost⟩
  rw [State.fetched, State.spend_setRegs, State.spend_spend]
  rfl

/-- One read, at `a`. -/
theorem runsRead_of_exec {post : Byte → Regs → Regs → Prop} (hbytes : encode i = bytes)
    (hexec : exec i (s.fetched i) = .next ((((s.fetched i).setRegs r).drew (s.answer a).drawn).spend 4))
    (hpost : post (s.peek a) s.regs r) (hcycles : 4 * bytes.length + 4 = cycles := by rfl) :
    runsRead s i bytes a cycles post := by
  subst hbytes hcycles
  refine ⟨rfl, _, hexec, ?_, fun _ => rfl, hpost⟩
  rw [State.fetched, State.spend_setRegs, State.spend_drew, State.spend_spend]
  rfl

/-- One write, of `v` at `a`, with the registers `w`, and then `k`, which leaves the registers `r`. -/
theorem runsStore_of_exec {post : Regs → Regs → Prop} {v : Byte} {site : FaultSite} {w : Regs} (k : Flow → Flow)
    (hbytes : encode i = bytes)
    (hexec : exec i (s.fetched i) = (k (((s.fetched i).setRegs w).memWrite site a v)).outcome)
    (hk : ∀ t, t.regs = w → k (.ok t) = .ok (t.setRegs r)) (hpost : post s.regs r)
    (hcycles : 4 * bytes.length + 4 = cycles := by rfl) : runsStore s i bytes a v cycles post := by
  subst hbytes hcycles
  refine ⟨rfl, fun u hu => ?_⟩
  have accepted : ((s.fetched i).setRegs w).busWrite a v = some ((u.setRegs w).spend (4 * (encode i).length)) := by
    simp [State.fetched, hu]
  rw [State.memWrite_of_some accepted, State.spend_spend, hk _ rfl] at hexec
  have hrest : u.butRegs ((u.setRegs r).spend (4 * (encode i).length + 4)) 0 (4 * (encode i).length + 4) := rfl
  exact ⟨_, hexec, hrest, fun hs => State.byteStored_of_busWrite hs hu hrest, hpost⟩

/-- The instruction loads the register `dst` from `a`. -/
theorem runsRead_loadFrom {dst : Reg8} {len : Word} (hbytes : encode i = bytes)
    (hexec : exec i (s.fetched i) = .next (((s.fetched i).advance len).loadFrom a dst))
    (hcycles : 4 * bytes.length + 4 = cycles := by rfl) :
    runsRead s i bytes a cycles (fun v => setsReg dst v len) :=
  runsRead_of_exec hbytes hexec (setsReg_set s.regs dst (s.peek a) len) hcycles

/-- The instruction loads A from `a` and moves HL to `hl`, a function of the registers before. -/
theorem runsRead_loadFrom_setHl {len : Word} (hl : Regs → Word) (hbytes : encode i = bytes)
    (hexec : exec i (s.fetched i) = .next ((((s.fetched i).advance len).loadFrom a .a).setReg16 .hl (hl s.regs)))
    (hcycles : 4 * bytes.length + 4 = cycles := by rfl) :
    runsRead s i bytes a cycles
      (fun v r t => t.a = v ∧ t.hl = hl r ∧ r.keep t [.a, .h, .l] ∧ flowsOn r t len) := by
  obtain ⟨ha, hkeep, hflow⟩ := setsReg_set s.regs .a (s.peek a) len
  exact runsRead_of_exec hbytes hexec ⟨ha, Regs.hl_setHl _ _, hkeep.trans (Regs.keep_setHl _ _), hflow⟩ hcycles

/-- The instruction stores `v` at `a` and does nothing else. -/
theorem runsStore_memWrite {v : Byte} {len : Word} (hbytes : encode i = bytes)
    (hexec : exec i (s.fetched i) = (((s.fetched i).advance len).memWrite (s.site i) a v).outcome)
    (hcycles : 4 * bytes.length + 4 = cycles := by rfl) :
    runsStore s i bytes a v cycles (fun r t => t = { r with pc := r.pc + len }) :=
  runsStore_of_exec id hbytes hexec (fun _ h => h ▸ rfl) rfl hcycles

/-- The instruction stores `v` at `a` and then moves HL to `hl`, a function of the registers before. -/
theorem runsStore_memWrite_setHl {v : Byte} {len : Word} (hl : Regs → Word) (hbytes : encode i = bytes)
    (hexec : exec i (s.fetched i) = ((((s.fetched i).advance len).memWrite (s.site i) a v).thenDo
      fun t => t.setReg16 .hl (hl s.regs)).outcome) (hcycles : 4 * bytes.length + 4 = cycles := by rfl) :
    runsStore s i bytes a v cycles (fun r t => t.hl = hl r ∧ r.keep t [.h, .l] ∧ flowsOn r t len) :=
  runsStore_of_exec (·.thenDo _) hbytes hexec (fun _ h => h ▸ rfl)
    ⟨Regs.hl_setHl _ _, (s.regs.keep_pc _).trans (Regs.keep_setHl _ _), rfl, rfl, rfl⟩ hcycles

end Courses

end Sys2Proof.Machine

namespace Sys2Proof.Proofs

open Sys2Proof.Machine Sys2Proof.Claims

/-- Settles O8: neither form accesses memory; the destination is written after PC. -/
theorem registerLoads : Obligations.RegisterLoads := fun s dst src n =>
  ⟨runsOnRegs_of_exec 0 rfl rfl (setsReg_set s.regs dst (s.regs.get src) 1#16),
    runsOnRegs_of_exec 0 rfl rfl (setsReg_set s.regs dst n 2#16)⟩

/-- Settles O9: each form is one `loadFrom` at the address of its rule, (HL+) and (HL-) moving HL after it. -/
theorem loadsFromMemory : Obligations.LoadsFromMemory := by
  intro s dst n a
  rw [page_eq_highPage, page_eq_highPage]
  exact ⟨runsRead_loadFrom rfl rfl, runsRead_loadFrom rfl rfl, runsRead_loadFrom rfl rfl,
    runsRead_loadFrom_setHl (·.hl + 1#16) rfl rfl, runsRead_loadFrom_setHl (·.hl - 1#16) rfl rfl,
    runsRead_loadFrom rfl rfl, runsRead_loadFrom rfl rfl, runsRead_loadFrom rfl rfl⟩

/-- Settles O10: each form is one `memWrite` at the address of its rule, (HL+) and (HL-) moving HL after it. -/
theorem byteStores : Obligations.ByteStores := by
  intro s src n a
  rw [page_eq_highPage, page_eq_highPage]
  exact ⟨runsStore_memWrite rfl rfl, runsStore_memWrite rfl rfl, runsStore_memWrite rfl rfl,
    runsStore_memWrite rfl rfl, runsStore_memWrite_setHl (·.hl + 1#16) rfl rfl,
    runsStore_memWrite_setHl (·.hl - 1#16) rfl rfl, runsStore_memWrite rfl rfl, runsStore_memWrite rfl rfl,
    runsStore_memWrite rfl rfl⟩

end Sys2Proof.Proofs

/-! PROOFS. 8-bit arithmetic and logic (41_alu8.md R230 to R258) and DAA after it (45_misc_system.md R325): the model's
results and flags are the tables on natural numbers; then the forms of a run that these instructions add. -/

namespace Sys2Proof.Machine

open Sys2Proof.Claims

/-! ### Results and flags as numbers -/

theorem beq_zero_eq_decide_toNat (r : Byte) : (r == 0#8) = decide (r.toNat = 0) := by
  rw [Bool.beq_eq_decide_eq]
  exact decide_eq_decide.mpr BitVec.toNat_eq

theorem carryIn_eq_bit (c : Bool) : carryIn c = bit c := rfl

/-- A result byte with its flags, Z taken from it, is a row of the table. -/
theorem map_toNat_eq_row {r : Byte} {m : Nat} (n h c : Bool) (hr : r.toNat = m) :
    Prod.map BitVec.toNat id (r, (⟨r == 0#8, n, h, c⟩ : Flags)) = row m n h c := by
  subst hr
  rw [beq_zero_eq_decide_toNat]
  rfl

theorem bit_le_one (c : Bool) : bit c ≤ 1 := by cases c <;> decide

/-- The difference on unbounded integers, lifted by a multiple of 256 that keeps it a natural number. -/
theorem toNat_ofInt_sub (a x : Byte) (c : Bool) :
    (BitVec.ofInt 8 ((a.toNat : Int) - x.toNat - carryIn c)).toNat = (a.toNat + 512 - x.toNat - bit c) % 256 := by
  have hx := x.isLt
  have hc := bit_le_one c
  rw [carryIn_eq_bit, BitVec.toNat_ofInt]
  omega

/-- The accumulator operations are the table of R230. -/
theorem alu_eq_aluRow (op : AluOp) (a x : Byte) (c : Bool) :
    (alu op a x c).map BitVec.toNat id = aluRow op a.toNat x.toNat (bit c) := by
  have borrowless : (a.toNat + 512 - x.toNat) % 256 = (a.toNat + 256 - x.toNat) % 256 := by
    have hx := x.isLt
    omega
  cases op with
  | add | adc => exact map_toNat_eq_row _ _ _ (BitVec.toNat_ofNat _ 8)
  | sub | cp => exact map_toNat_eq_row _ _ _ ((toNat_ofInt_sub a x false).trans borrowless)
  | sbc => exact map_toNat_eq_row _ _ _ (toNat_ofInt_sub a x c)
  | and => exact map_toNat_eq_row _ _ _ (BitVec.toNat_and a x)
  | xor => exact map_toNat_eq_row _ _ _ (BitVec.toNat_xor a x)
  | or => exact map_toNat_eq_row _ _ _ (BitVec.toNat_or a x)

theorem alu_toNat (op : AluOp) (a x : Byte) (c : Bool) :
    (alu op a x c).1.toNat = (aluRow op a.toNat x.toNat (bit c)).1 := congrArg Prod.fst (alu_eq_aluRow op a x c)

theorem alu_flags (op : AluOp) (a x : Byte) (c : Bool) :
    (alu op a x c).2 = (aluRow op a.toNat x.toNat (bit c)).2 := congrArg Prod.snd (alu_eq_aluRow op a x c)

theorem incByte_toNat (v : Byte) (f : Flags) : (incByte v f).1.toNat = (v.toNat + 1) % 256 := BitVec.toNat_add v 1#8

theorem decByte_toNat (v : Byte) (f : Flags) : (decByte v f).1.toNat = (v.toNat + 255) % 256 := by
  rw [decByte, BitVec.toNat_sub, Nat.add_comm]
  rfl

theorem incByte_flags (v : Byte) (f : Flags) :
    (incByte v f).2 = ⟨decide (v.toNat = 0xFF), false, decide (v.toNat % 16 = 0xF), f.c⟩ := by
  have hv := v.isLt
  have zero : (incByte v f).1.toNat = 0 ↔ v.toNat = 0xFF := by
    rw [incByte_toNat]
    omega
  rw [← decide_eq_decide.mpr zero, ← beq_zero_eq_decide_toNat]
  rfl

theorem decByte_flags (v : Byte) (f : Flags) :
    (decByte v f).2 = ⟨decide (v.toNat = 0x01), true, decide (v.toNat % 16 = 0), f.c⟩ := by
  have hv := v.isLt
  have zero : (decByte v f).1.toNat = 0 ↔ v.toNat = 0x01 := by
    rw [decByte_toNat]
    omega
  rw [← decide_eq_decide.mpr zero, ← beq_zero_eq_decide_toNat]
  rfl

/-- DAA is the algorithm of R325: the same corrections are due on either side, and each case is one byte sum. -/
theorem daa_toNat (v : Byte) (f : Flags) : (daa v f).1.toNat = (daaRow v.toNat f).1 := by
  have hv := v.isLt
  have low : v.toNat % 16 = lowNibble v := rfl
  obtain ⟨z, n, h, c⟩ := f
  cases n with
  | false =>
    simp only [daa, daaRow, low, Bool.or_eq_true, decide_eq_true_eq, Bool.false_eq_true, if_false, if_true]
    split_ifs <;> simp [Nat.mod_eq_of_lt hv]
  | true =>
    simp only [daa, daaRow, Bool.true_eq_false, if_false, if_true]
    split_ifs <;> simp [BitVec.toNat_sub] <;> omega

theorem daa_flags (v : Byte) (f : Flags) :
    (daa v f).2 = ⟨decide ((daaRow v.toNat f).1 = 0), f.n, false, (daaRow v.toNat f).2⟩ := by
  rw [← daa_toNat, ← beq_zero_eq_decide_toNat]
  obtain ⟨z, n, h, c⟩ := f
  cases n with
  | false => cases c <;> simp [daa, daaRow]
  | true => rfl

theorem bcd_toNat {n : Nat} (h : n < 100) : (bcd n).toNat = n / 10 * 16 + n % 10 := by
  rw [bcd, BitVec.toNat_ofNat]
  omega

/-- After an addition of two-digit decimal numbers, the high correction is due where the sum has three digits, the low
one where the sum of the low digits has two. -/
theorem daaRow_add_bcd {x y : Nat} (c : Nat) (hx : x < 100) (hy : y < 100) :
    let q := aluRow .add (bcd x).toNat (bcd y).toNat c
    daaRow q.1 q.2 = ((bcd ((x + y) % 100)).toNat, decide (100 ≤ x + y)) := by
  have hX := bcd_toNat hx
  have hY := bcd_toNat hy
  rw [bcd_toNat (Nat.mod_lt _ (by decide))]
  simp only [aluRow, row, daaRow, if_true, decide_eq_true_eq]
  have above : (bcd x).toNat + (bcd y).toNat > 0x99 ↔ 100 ≤ x + y := by omega
  have high : ((bcd x).toNat + (bcd y).toNat > 0xFF ∨ ((bcd x).toNat + (bcd y).toNat) % 256 > 0x99) ↔
      100 ≤ x + y := by omega
  have low : ((bcd x).toNat % 16 + (bcd y).toNat % 16 > 0xF ∨ ((bcd x).toNat + (bcd y).toNat) % 256 % 16 > 0x09) ↔
      10 ≤ x % 10 + y % 10 := by omega
  simp only [high, low, Prod.mk.injEq, and_true]
  split <;> split <;> omega

/-- After a subtraction of two-digit decimal numbers, each correction is due where its digit borrows. -/
theorem daaRow_sub_bcd {x y : Nat} (c : Nat) (hx : x < 100) (hy : y < 100) :
    let q := aluRow .sub (bcd x).toNat (bcd y).toNat c
    daaRow q.1 q.2 = ((bcd ((x + 100 - y) % 100)).toNat, decide (x < y)) := by
  have hX := bcd_toNat hx
  have hY := bcd_toNat hy
  rw [bcd_toNat (Nat.mod_lt _ (by decide))]
  simp only [aluRow, row, daaRow, Bool.true_eq_false, if_false, decide_eq_true_eq]
  have high : (bcd x).toNat < (bcd y).toNat ↔ x < y := by omega
  have low : (bcd x).toNat % 16 < (bcd y).toNat % 16 ↔ x % 10 < y % 10 := by omega
  simp only [high, low, Prod.mk.injEq, and_true]
  split <;> split <;> omega

theorem bcd_eq_zero_iff {n : Nat} (h : n < 100) : (bcd n).toNat = 0 ↔ n = 0 := by
  rw [bcd_toNat h]
  omega

/-- DAA after an accumulator operation, by the two tables. -/
theorem daa_alu {op : AluOp} {a x r : Byte} {c cy : Bool}
    (h : let q := aluRow op a.toNat x.toNat (bit c); daaRow q.1 q.2 = (r.toNat, cy)) :
    let q := alu op a x c
    (daa q.1 q.2).1 = r ∧ (daa q.1 q.2).2.c = cy ∧ (daa q.1 q.2).2.z = decide (r.toNat = 0) := by
  have table : daaRow (alu op a x c).1.toNat (alu op a x c).2 = (r.toNat, cy) := by
    rw [alu_toNat, alu_flags]
    exact h
  refine ⟨BitVec.eq_of_toNat_eq ?_, ?_, ?_⟩
  · rw [daa_toNat, table]
  · rw [daa_flags, table]
  · rw [daa_flags, table]

/-! ### The registers after a result and its flags -/

section Registers

variable (r : Regs)

theorem Regs.get_flags (f : Flags) (x : Reg8) : Regs.get { r with f := f } x = r.get x := by cases x <;> rfl

/-- PC past the instruction, then the register `x` written, then the flags: every other register is kept. -/
theorem Regs.keep_set_flags (x : Reg8) (v : Byte) (f : Flags) (p : Word) :
    r.keep { ({ r with pc := p }).set x v with f := f } [x] := by
  intro y hy
  rw [Regs.get_flags]
  exact (r.keep_pc p).trans (Regs.keep_set _ x v) y hy

/-- An accumulator operation writes A and the flags, CP the A it found. -/
theorem Regs.alu_eq_set (op : AluOp) (x : Byte) :
    r.alu op x = { r.set .a (if op = .cp then r.a else (Machine.alu op r.a x r.f.c).1) with
      f := (Machine.alu op r.a x r.f.c).2 } := by
  cases op <;> rfl

theorem accumulates_alu (op : AluOp) (x : Byte) (len : Word) :
    accumulates op x len r (Regs.alu { r with pc := r.pc + len } op x) := by
  rw [Regs.alu_eq_set]
  refine ⟨?_, alu_flags op r.a x r.f.c, r.keep_set_flags .a _ _ _, rfl, rfl⟩
  rw [← alu_toNat]
  exact apply_ite BitVec.toNat _ _ _

end Registers

/-! ### The forms of a run -/

section Courses

variable {s : State} {i : Instr} {bytes : List Byte} {cycles : Nat}

theorem runsOnRegs_aluReg {op : AluOp} {src : Reg8} (hbytes : encode i = bytes)
    (hexec : exec i (s.fetched i) = .next ((s.fetched i).aluReg op src))
    (hcycles : 4 * bytes.length = cycles := by rfl) :
    runsOnRegs s i bytes cycles (accumulates op (s.regs.get src) 1#16) :=
  runsOnRegs_of_exec 0 hbytes hexec (accumulates_alu s.regs op _ _) hcycles

theorem runsOnRegs_aluImm {op : AluOp} {n : Byte} (hbytes : encode i = bytes)
    (hexec : exec i (s.fetched i) = .next ((s.fetched i).aluImm op n))
    (hcycles : 4 * bytes.length = cycles := by rfl) :
    runsOnRegs s i bytes cycles (accumulates op n 2#16) :=
  runsOnRegs_of_exec 0 hbytes hexec (accumulates_alu s.regs op _ _) hcycles

theorem runsRead_aluHl {op : AluOp} (hbytes : encode i = bytes)
    (hexec : exec i (s.fetched i) = .next ((s.fetched i).aluHl op))
    (hcycles : 4 * bytes.length + 4 = cycles := by rfl) :
    runsRead s i bytes s.regs.hl cycles (fun v => accumulates op v 1#16) :=
  runsRead_of_exec hbytes hexec (accumulates_alu s.regs op _ _) hcycles

/-- No data access: PC past the instruction, then the register `x` written, then the flags. -/
theorem runsOnRegs_set_flags {x : Reg8} {v : Byte} {f : Flags} {len : Word} {post : Regs → Regs → Prop}
    (hbytes : encode i = bytes)
    (hexec : exec i (s.fetched i) = .next ((((s.fetched i).advance len).setReg x v).setFlags f))
    (hpost : ∀ t : Regs, t.get x = v → t.f = f → s.regs.keep t [x] → t.sp = s.regs.sp → t.pc = s.regs.pc + len →
      post s.regs t)
    (hcycles : 4 * bytes.length = cycles := by rfl) : runsOnRegs s i bytes cycles post :=
  runsOnRegs_of_exec 0 hbytes hexec
    (hpost _ ((Regs.get_flags _ f x).trans (Regs.get_set_same _ x v)) rfl (s.regs.keep_set_flags x v f _)
      (Regs.set_sp _ x v) (Regs.set_pc _ x v)) hcycles

/-- One read at `a`, one write there of `g` of the byte read, with the registers `w`, and then `k`, which leaves the
registers `r`. -/
theorem runsUpdate_of_exec {a : Word} {g : Byte → Byte} {post : Byte → Regs → Regs → Prop} {site : FaultSite}
    {w r : Regs} (k : Flow → Flow) (hbytes : encode i = bytes)
    (hexec : exec i (s.fetched i) =
      (k ((((s.fetched i).afterRead a).setRegs w).memWrite site a (g (s.peek a)))).outcome)
    (hk : ∀ t, t.regs = w → k (.ok t) = .ok (t.setRegs r)) (hpost : post (s.peek a) s.regs r)
    (hcycles : 4 * bytes.length + 8 = cycles := by rfl) :
    runsUpdate s i bytes a g cycles post := by
  subst hbytes hcycles
  refine ⟨rfl, fun u hu => ?_⟩
  have accepted : (((s.fetched i).afterRead a).setRegs w).busWrite a (g (s.peek a)) =
      some (((u.setRegs w).drew (s.answer a).drawn).spend (4 * (encode i).length + 4)) := by
    simp [State.fetched, State.afterRead, hu]
  rw [State.memWrite_of_some accepted, State.spend_spend, hk _ rfl] at hexec
  have hrest : u.butRegs (((u.setRegs r).drew (s.answer a).drawn).spend (4 * (encode i).length + 8))
    (s.answer a).drawn (4 * (encode i).length + 8) := rfl
  exact ⟨_, hexec, hrest, fun hs => State.byteStored_of_busWrite hs hu hrest, hpost⟩

/-- The instruction replaces the byte at `a` and then writes the flags. -/
theorem runsUpdate_memWrite_setFlags {a : Word} {g : Byte → Byte} {f : Flags} {len : Word}
    {post : Byte → Regs → Regs → Prop} (hbytes : encode i = bytes)
    (hexec : exec i (s.fetched i) = ((((s.fetched i).advance len).memRead a).2.memWrite (s.site i) a
      (g (s.peek a)) |>.thenDo fun t => t.setFlags f).outcome)
    (hpost : post (s.peek a) s.regs { s.regs with f := f, pc := s.regs.pc + len })
    (hcycles : 4 * bytes.length + 8 = cycles := by rfl) : runsUpdate s i bytes a g cycles post :=
  runsUpdate_of_exec (·.thenDo _) hbytes hexec
    (fun t h => congrArg (fun w : Regs => Flow.ok (t.setRegs { w with f := f })) h) hpost hcycles

end Courses

end Sys2Proof.Machine

namespace Sys2Proof.Proofs

open Sys2Proof.Machine Sys2Proof.Claims

/-- Settles O11: each row is one `aluReg`. -/
theorem accumulatorRegister : Obligations.AccumulatorRegister := fun _ _ =>
  ⟨runsOnRegs_aluReg rfl rfl, runsOnRegs_aluReg rfl rfl, runsOnRegs_aluReg rfl rfl, runsOnRegs_aluReg rfl rfl,
    runsOnRegs_aluReg rfl rfl, runsOnRegs_aluReg rfl rfl, runsOnRegs_aluReg rfl rfl, runsOnRegs_aluReg rfl rfl⟩

/-- Settles O12: each row is one `aluHl`. -/
theorem accumulatorMemory : Obligations.AccumulatorMemory := fun _ =>
  ⟨runsRead_aluHl rfl rfl, runsRead_aluHl rfl rfl, runsRead_aluHl rfl rfl, runsRead_aluHl rfl rfl,
    runsRead_aluHl rfl rfl, runsRead_aluHl rfl rfl, runsRead_aluHl rfl rfl, runsRead_aluHl rfl rfl⟩

/-- Settles O13: each row is one `aluImm`. -/
theorem accumulatorImmediate : Obligations.AccumulatorImmediate := fun _ _ =>
  ⟨runsOnRegs_aluImm rfl rfl, runsOnRegs_aluImm rfl rfl, runsOnRegs_aluImm rfl rfl, runsOnRegs_aluImm rfl rfl,
    runsOnRegs_aluImm rfl rfl, runsOnRegs_aluImm rfl rfl, runsOnRegs_aluImm rfl rfl, runsOnRegs_aluImm rfl rfl⟩

/-- Settles O14: a register's new value is read back with the flags; at HL, the flags are written after the store. -/
theorem incDec : Obligations.IncDec := by
  intro s x
  refine ⟨runsOnRegs_set_flags rfl rfl ?_, runsOnRegs_set_flags rfl rfl ?_,
    runsUpdate_memWrite_setFlags rfl rfl ?_, runsUpdate_memWrite_setFlags rfl rfl ?_⟩
  · intro t hv hf hkeep hsp hpc
    rw [hv, hf]
    exact ⟨incByte_toNat _ _, Bool.beq_eq_decide_eq _ _, rfl, rfl, rfl, hkeep, hsp, hpc⟩
  · intro t hv hf hkeep hsp hpc
    rw [hv, hf]
    exact ⟨decByte_toNat _ _, Bool.beq_eq_decide_eq _ _, rfl, rfl, rfl, hkeep, hsp, hpc⟩
  · exact congrArg (fun f => { s.regs with f := f, pc := s.regs.pc + 1#16 }) (incByte_flags (s.peek s.regs.hl) _)
  · exact congrArg (fun f => { s.regs with f := f, pc := s.regs.pc + 1#16 }) (decByte_flags (s.peek s.regs.hl) _)

/-- Settles O26: the operation and DAA are their tables, run on two numbers in BCD. -/
theorem daaIsDecimal : Obligations.DaaIsDecimal := by
  intro s x y hx hy ha
  obtain ⟨sum, carry, zero⟩ := daa_alu (daaRow_add_bcd (bit s.regs.f.c) hx hy)
  obtain ⟨difference, borrow, -⟩ := daa_alu (daaRow_sub_bcd (bit s.regs.f.c) hx hy)
  simp only [bcd_eq_zero_iff (Nat.mod_lt (x + y) (show 100 > 0 by decide))] at zero
  rw [← ha] at sum carry zero difference borrow
  exact ⟨⟨_, _, rfl, rfl, sum, carry, zero⟩, _, _, rfl, rfl, difference, borrow⟩

end Sys2Proof.Proofs

/-! PROOFS. 16-bit loads and the stack (42_load16_stack.md R260 to R268), ADD SP,e8 (43_alu16.md R283), the calls
(44_control.md R296, R297, R301), and interrupt dispatch, which pushes PC (60_exceptions.md R411 to R416). -/

namespace Sys2Proof.Machine

open Sys2Proof.Claims

/-! ### Pairs and flags -/

section Registers

variable (r : Regs)

theorem Regs.get16_set16_other {p q : Reg16} (v : Word) (h : q ≠ p) : (r.set16 p v).get16 q = r.get16 q := by
  cases p <;> cases q
  case bc.bc | de.de | hl.hl | sp.sp => exact absurd rfl h
  all_goals rfl

@[simp] theorem Regs.set16_a (p : Reg16) (v : Word) : (r.set16 p v).a = r.a := by cases p <;> rfl

@[simp] theorem Regs.set16_pairOf_sp (p : StackPair) (v : Word) : (r.set16 (pairOf p) v).sp = r.sp := by
  cases p <;> rfl

theorem Regs.get16_pc (p : Word) (q : Reg16) : Regs.get16 { r with pc := p } q = r.get16 q := by cases q <;> rfl

theorem Regs.get16_sp_pc (w p : Word) {q : Reg16} (h : q ≠ .sp) :
    Regs.get16 { r with sp := w, pc := p } q = r.get16 q := by
  cases q with
  | bc | de | hl => rfl
  | sp => exact absurd rfl h

/-- PC past the instruction, then HL written, then the flags: every other register is kept. -/
theorem Regs.keep_setHl_flags (w : Word) (f : Flags) (p : Word) :
    r.keep { ({ r with pc := p }).setHl w with f := f } [.h, .l] := by
  intro x hx
  rw [Regs.get_flags]
  exact (r.keep_pc p).trans (Regs.keep_setHl _ w) x hx

theorem Regs.keep_sp (w : Word) : r.keep { r with sp := w } [] := by
  intro x _
  cases x <;> rfl

/-- The registers after a load of a pair: PC past the instruction, then the pair written. -/
theorem setsPair_set16 (p : Reg16) (v len : Word) :
    setsPair p v len r ({ r with pc := r.pc + len }.set16 p v) := by
  refine ⟨Regs.get16_set16_same _ p v, fun q hq => ?_, Regs.set16_a _ p v, Regs.set16_pc _ p v⟩
  rw [Regs.get16_set16_other _ v hq, Regs.get16_pc]

end Registers

theorem Flags.ofByte_loByte (w : Word) :
    Flags.ofByte (loByte w) = ⟨w.getLsbD 7, w.getLsbD 6, w.getLsbD 5, w.getLsbD 4⟩ := by
  simp [Flags.ofByte, loByte]

theorem sext16_eq_signed : ∀ b : Byte, sext16 b = signed b := by decide

theorem condTrue_iff_holds (f : Flags) (cc : Cond) : condTrue f cc ↔ f.holds cc = true := by
  cases cc <;> simp [condTrue, Flags.holds]

theorem rstVector_eq : ∀ t : BitVec 3, rstVector t = BitVec.ofNat 16 (8 * t.toNat) := by decide

/-! ### Two stores -/

/-- Which cell a write reaches does not depend on what the cells hold. -/
@[simp] theorem State.storedCell_storeCell (s : State) (c : Cell) (v : Byte) (b : Word) :
    (s.storeCell c v).storedCell b = s.storedCell b := by
  cases c <;> rfl

/-- Two bytes that the bus accepts are stored, if the map sends their addresses to stores. -/
theorem State.bytesStored_of_busWrite {s u1 u2 t : State} {a b : Word} {v w : Byte} {k n : Nat} (hs : s.wf = true)
    (h1 : s.busWrite a v = some u1) (h2 : u1.busWrite b w = some u2) (ht : u2.butRegs t k n) :
    s.bytesStored t a v b w := by
  intro c d hc hd
  obtain ⟨first, firstCells, -, firstShown⟩ :=
    State.byteStored_of_busWrite (t := u1) (k := 0) (n := 0) hs h1 rfl c hc
  have hu1 : u1 = s.storeCell c v := Option.some.inj (h1.symm.trans (State.busWrite_eq_storeCell v hc))
  have hd1 : u1.storedCell b = some d := by rw [hu1, State.storedCell_storeCell, hd]
  have shown (x : Word) : u1.shownCell x = s.shownCell x := by rw [hu1, State.shownCell_storeCell]
  obtain ⟨second, secondCells, -, secondShown⟩ := State.byteStored_of_busWrite (State.wf_busWrite hs h1) h2 ht d hd1
  refine ⟨second, fun hne => ?_, fun e hec hed => ?_, fun x hxc hxd => ?_⟩
  · rw [secondCells c hne, first]
  · rw [secondCells e hed, firstCells e hec]
  · rw [secondShown x (by rwa [shown]), firstShown x hxc]

/-- Two bytes stored in different cells are read back, where no cheat stands. -/
theorem State.answer_storeCell_storeCell {s : State} {a b : Word} {c d : Cell} (v w : Byte) (hs : s.wf = true)
    (hk : s.cheats = []) (hc : s.storedCell a = some c) (hd : s.storedCell b = some d) (hne : c ≠ d) :
    let u := (s.storeCell c v).storeCell d w
    u.answer a = .byte v ∧ u.answer b = .byte w := by
  have hd1 : (s.storeCell c v).storedCell b = some d := by rw [State.storedCell_storeCell, hd]
  have hwf : (s.storeCell c v).wf = true := State.wf_busWrite hs (State.busWrite_eq_storeCell v hc)
  have plain (n : Nat) : s.cheats.get? n = none := by rw [hk]; rfl
  have shown : (s.storeCell c v).shownCell a = some c := by
    rw [State.shownCell_storeCell, State.shownCell_of_storedCell hc]
  obtain ⟨-, -, first, -⟩ := State.byteStored_storeCell v hs hc c hc
  obtain ⟨-, -, second, others⟩ := State.byteStored_storeCell w hwf hd1 d hd1
  refine ⟨?_, second b (State.shownCell_of_storedCell hd1) (by rw [State.cheats_storeCell, plain])⟩
  rw [others a (by simpa [shown] using hne), first a (State.shownCell_of_storedCell hc) (plain _)]

/-! Two stores in a state that is `s` but for registers and `n` cycles, where the bus accepts both. -/

section Stores

variable {s u1 u2 : State} {site : FaultSite} {x : Word} {n : Nat}

theorem State.memWrite16_of_accepted {r : Regs} {a : Word} (h1 : s.busWrite a (loByte x) = some u1)
    (h2 : u1.busWrite (a + 1#16) (hiByte x) = some u2) :
    ((s.setRegs r).spend n).memWrite16 site a x = .ok ((u2.setRegs r).spend (n + 8)) := by
  have first : ((s.setRegs r).spend n).busWrite a (loByte x) = some ((u1.setRegs r).spend n) := by simp [h1]
  have second : ((u1.setRegs r).spend (n + 4)).busWrite (a + 1#16) (hiByte x) =
      some ((u2.setRegs r).spend (n + 4)) := by simp [h2]
  rw [State.memWrite16, State.memWrite_of_some first, State.spend_spend, Flow.andThen_ok,
    State.memWrite_of_some second, State.spend_spend]

theorem State.push16_of_accepted {pc : Word} (h1 : s.busWrite (s.regs.sp - 1#16) (hiByte x) = some u1)
    (h2 : u1.busWrite (s.regs.sp - 2#16) (loByte x) = some u2) :
    ((s.setRegs { s.regs with pc := pc }).spend n).push16 site x =
      .ok ((u2.setRegs { s.regs with sp := s.regs.sp - 2#16, pc := pc }).spend (n + 8)) := by
  let r := { s.regs with pc := pc }
  have first : ((s.setRegs r).spend n).busWrite (r.sp - 1#16) (hiByte x) = some ((u1.setRegs r).spend n) := by
    simp [r, h1]
  have second : ((u1.setRegs r).spend n).busWrite (r.sp - 2#16) (loByte x) = some ((u2.setRegs r).spend n) := by
    simp [r, h2]
  rw [State.push16_of_some first second, State.spend_setRegs, State.spend_spend]
  rfl

end Stores

/-- `Pop16` where no oracle answers. -/
theorem State.pop16_of_answer {s : State} {lo hi : Byte} (hlo : s.answer s.regs.sp = .byte lo)
    (hhi : s.answer (s.regs.sp + 1#16) = .byte hi) :
    s.pop16 = (hi ++ lo, (s.setRegs { s.regs with sp := s.regs.sp + 2#16 }).spend 8) := by
  rw [State.pop16_eq, hhi, hlo, State.peek_of_answer hlo]
  rfl

/-! ### PUSH rr and POP rr in any state -/

theorem exec_pushRr_of_accepted {s u1 u2 : State} {p : StackPair}
    (h1 : s.busWrite (s.regs.sp - 1#16) (hiByte (s.regs.get16 (pairOf p))) = some u1)
    (h2 : u1.busWrite (s.regs.sp - 2#16) (loByte (s.regs.get16 (pairOf p))) = some u2) :
    exec (.pushRr p) s =
      .next ((u2.setRegs { s.regs with sp := s.regs.sp - 2#16, pc := s.regs.pc + 1#16 }).spend 12) :=
  congrArg Flow.outcome (State.push16_of_accepted (n := 4) h1 h2)

theorem exec_popRr_of_answer {s : State} {p : StackPair} {lo hi : Byte} (hlo : s.answer s.regs.sp = .byte lo)
    (hhi : s.answer (s.regs.sp + 1#16) = .byte hi) :
    exec (.popRr p) s = .next ((s.setRegs (Regs.set16
      { s.regs with sp := s.regs.sp + 2#16, pc := s.regs.pc + 1#16 } (pairOf p) (hi ++ lo))).spend 8) := by
  have popped := State.pop16_of_answer (s := s.advance 1#16) hlo hhi
  exact congrArg (fun w => (Host.Outcome.next (w.2.setReg16 (pairOf p) w.1) : Exec)) popped

/-! ### The forms of a run -/

theorem State.advance_fetched (s : State) (i : Instr) (len : Word) : (s.fetched i).advance len =
    (s.setRegs { s.regs with pc := s.regs.pc + len }).spend (4 * (encode i).length) := rfl

section Courses

variable {s : State} {i : Instr} {bytes : List Byte} {cycles : Nat} {len : Word}

/-- Where the bus accepts both writes, the state after the second with the registers `r`. -/
theorem runsTwoStores_of_exec {a b : Word} {v w : Byte} {r : Regs} {post : Regs → Regs → Prop}
    (hbytes : encode i = bytes)
    (hexec : ∀ u1 u2, s.busWrite a v = some u1 → u1.busWrite b w = some u2 →
      exec i (s.fetched i) = .next ((u2.setRegs r).spend cycles))
    (hpost : post s.regs r) : runsTwoStores s i bytes a v b w cycles post := by
  refine ⟨hbytes, fun u1 u2 h1 h2 => ?_⟩
  have hrest : u2.butRegs ((u2.setRegs r).spend cycles) 0 cycles := rfl
  exact ⟨_, hexec u1 u2 h1 h2, hrest, fun hs => State.bytesStored_of_busWrite hs h1 h2 hrest, hpost⟩

/-- The instruction stores the word `x` at `a` and does nothing else. -/
theorem runsTwoStores_memWrite16 {a x : Word} (hbytes : encode i = bytes)
    (hexec : exec i (s.fetched i) = (((s.fetched i).advance len).memWrite16 (s.site i) a x).outcome)
    (hcycles : 4 * bytes.length + 8 = cycles := by rfl) :
    runsTwoStores s i bytes a (loByte x) (a + 1#16) (hiByte x) cycles
      (fun r t => t = { r with pc := r.pc + len }) := by
  subst hbytes hcycles
  refine runsTwoStores_of_exec rfl (fun u1 u2 h1 h2 => ?_) rfl
  rw [hexec, State.advance_fetched, State.memWrite16_of_accepted h1 h2]
  rfl

/-- The instruction spends 4 cycles, pushes `x`, and then `k` takes PC, which is past the instruction, to `target`. -/
theorem runsPush_of_exec {x target : Word} (k : Flow → Flow) (hbytes : encode i = bytes)
    (hexec : exec i (s.fetched i) = (k ((((s.fetched i).advance len).spend 4).push16 (s.site i) x)).outcome)
    (hk : ∀ t : State, t.regs.pc = s.regs.pc + len → k (.ok t) = .ok (t.setPc target))
    (hcycles : 4 * bytes.length + 12 = cycles := by rfl) :
    runsPush s i bytes x cycles (fun r t => t = { r with sp := r.sp - 2#16, pc := target }) := by
  subst hbytes hcycles
  refine runsTwoStores_of_exec rfl (fun u1 u2 h1 h2 => ?_) rfl
  rw [hexec, State.advance_fetched, State.spend_spend, State.push16_of_accepted h1 h2, hk _ rfl]
  rfl

/-- The instruction pushes `x` and does nothing else. -/
theorem runsPush_push16 {x : Word} (hbytes : encode i = bytes)
    (hexec : exec i (s.fetched i) = ((((s.fetched i).advance len).spend 4).push16 (s.site i) x).outcome)
    (hcycles : 4 * bytes.length + 12 = cycles := by rfl) :
    runsPush s i bytes x cycles (fun r t => t = { r with sp := r.sp - 2#16, pc := r.pc + len }) :=
  runsPush_of_exec id hbytes hexec (fun _ h => h ▸ rfl) hcycles

/-- The instruction calls `target`. -/
theorem runsPush_call {target : Word} (hbytes : encode i = bytes)
    (hexec : exec i (s.fetched i) = (((s.fetched i).advance len).call (s.site i) target).outcome)
    (hcycles : 4 * bytes.length + 12 = cycles := by rfl) :
    runsPush s i bytes (s.regs.pc + len) cycles (fun r t => t = { r with sp := r.sp - 2#16, pc := target }) :=
  runsPush_of_exec (·.thenDo _) hbytes hexec (fun _ _ => rfl) hcycles

/-- The instruction pops a word and then `load`s it into the registers. -/
theorem runsPop_of_exec (load : Word → Regs → Regs) {post : Word → Regs → Regs → Prop} (hbytes : encode i = bytes)
    (hexec : let p := ((s.fetched i).advance len).pop16
      exec i (s.fetched i) = .next (p.2.setRegs (load p.1 p.2.regs)))
    (hpost : post s.poppedWord s.regs
      (load s.poppedWord { s.regs with sp := s.regs.sp + 2#16, pc := s.regs.pc + len }))
    (hcycles : 4 * bytes.length + 8 = cycles := by rfl) : runsPop s i bytes s cycles post := by
  subst hbytes hcycles
  have popped : ((s.fetched i).advance len).pop16 = (s.poppedWord,
      ((s.setRegs { s.regs with sp := s.regs.sp + 2#16, pc := s.regs.pc + len }).drew s.popDraws).spend
        (4 * (encode i).length + 8)) := by
    rw [State.advance_fetched, State.pop16_eq, State.spend_setRegs, State.spend_drew, State.spend_spend]
    rfl
  rw [popped] at hexec
  exact ⟨rfl, _, hexec, rfl, fun _ => rfl, hpost⟩

end Courses

/-! ### Interrupt dispatch -/

theorem firstSource_eq_none_iff : ∀ p : BitVec 5, firstSource p = none ↔ p = 0#5 := by decide

/-- The first source of a set is the one with no source of the set below it. -/
theorem firstSource_of_lowest {p : BitVec 5} {i : Source} (hi : p.getLsbD i.index = true)
    (hlow : ∀ j : Source, j.index < i.index → p.getLsbD j.index = false) : firstSource p = some i := by
  have pass (j : Source) (h : j.index < i.index) (rest : Option Source) :
      (if p.getLsbD j.index then some j else rest) = rest := by rw [hlow j h]; rfl
  cases i with
  | vblank => exact if_pos hi
  | lcdStat => exact (pass .vblank (by decide) _).trans (if_pos hi)
  | timer =>
    exact (pass .vblank (by decide) _).trans <| (pass .lcdStat (by decide) _).trans (if_pos hi)
  | serial =>
    exact (pass .vblank (by decide) _).trans <| (pass .lcdStat (by decide) _).trans <|
      (pass .timer (by decide) _).trans (if_pos hi)
  | joypad =>
    exact (pass .vblank (by decide) _).trans <| (pass .lcdStat (by decide) _).trans <|
      (pass .timer (by decide) _).trans <| (pass .serial (by decide) _).trans (if_pos hi)

/-- The state in which dispatch pushes PC: IME and the request of the source are cleared (R416). -/
def State.acknowledge (s : State) (i : Source) : State :=
  { s with ime := false, requested := s.requested &&& ~~~(1#5 <<< i.index) }

theorem State.takeInterrupt_eq (s : State) (i : Source) : s.takeInterrupt i =
    ((s.acknowledge i).push16 ⟨s.regs.pc, 0x00#8⟩ s.regs.pc).thenDo fun t => (t.setPc i.vector).spend 12 := rfl

/-- Dispatch clears IME, whatever becomes of the push. -/
theorem State.takeInterrupt_ime (s : State) (i : Source) : (s.takeInterrupt i).state.ime = false := by
  have pushed := (State.StoredOnly.refl (s.acknowledge i)).push16 ⟨s.regs.pc, 0x00#8⟩ s.regs.pc
  obtain ⟨-, hime, -⟩ := State.unreached_iff.mp pushed.unreached
  rw [State.takeInterrupt_eq]
  exact Flow.thenDo_induction (P := fun t => t.ime = false) hime fun _ ht => ht

section Service

variable {s u1 u2 : State} {i : Source}

theorem State.service_of_ime_false (hime : s.ime = false) : s.service = s := by
  rw [State.service, hime]
  rfl

theorem State.service_of_pending_zero (h : s.requested &&& s.enabled = 0#5) : s.service = s := by
  rw [State.service, State.pending, (firstSource_eq_none_iff _).mpr h]
  exact ite_self s

theorem State.service_of_firstSource (hime : s.ime = true) (hi : firstSource (s.requested &&& s.enabled) = some i) :
    s.service = (s.takeInterrupt i).state := by
  rw [State.service, hime, State.pending, hi]
  rfl

theorem State.takeInterrupt_of_accepted
    (h1 : (s.acknowledge i).busWrite (s.regs.sp - 1#16) (hiByte s.regs.pc) = some u1)
    (h2 : u1.busWrite (s.regs.sp - 2#16) (loByte s.regs.pc) = some u2) :
    s.takeInterrupt i = .ok ((u2.setRegs { s.regs with sp := s.regs.sp - 2#16, pc := i.vector }).spend 20) := by
  have pushed := State.push16_of_some (s := s.acknowledge i) (site := ⟨s.regs.pc, 0x00#8⟩) h1 h2
  rw [State.takeInterrupt_eq, pushed, Flow.thenDo_ok, State.setPc_eq, State.spend_setRegs, State.spend_spend]
  rfl

theorem State.takeInterrupt_of_none (h : (s.acknowledge i).busWrite (s.regs.sp - 1#16) (hiByte s.regs.pc) = none) :
    s.takeInterrupt i = .raised (((s.acknowledge i).setRegs { s.regs with sp := s.regs.sp - 1#16 }).raise
      ⟨.bankCountZero, s.regs.pc, 0x00#8, some (s.regs.sp - 1#16, hiByte s.regs.pc)⟩) := by
  rw [State.takeInterrupt_eq, State.push16_of_none (s := s.acknowledge i) h]
  rfl

theorem State.takeInterrupt_of_some_none
    (h1 : (s.acknowledge i).busWrite (s.regs.sp - 1#16) (hiByte s.regs.pc) = some u1)
    (h2 : u1.busWrite (s.regs.sp - 2#16) (loByte s.regs.pc) = none) :
    s.takeInterrupt i = .raised (((u1.setRegs { s.regs with sp := s.regs.sp - 2#16 }).spend 4).raise
      ⟨.bankCountZero, s.regs.pc, 0x00#8, some (s.regs.sp - 2#16, loByte s.regs.pc)⟩) := by
  rw [State.takeInterrupt_eq, State.push16_of_some_none (s := s.acknowledge i) h1 h2]
  rfl

end Service

end Sys2Proof.Machine

namespace Sys2Proof.Proofs

open Sys2Proof.Machine Sys2Proof.Claims

/-- Settles O15: the pair is written after PC; LD (a16),SP is one `memWrite16`. -/
theorem wordLoads : Obligations.WordLoads := fun s p n =>
  ⟨runsOnRegs_of_exec 0 rfl rfl ⟨setsPair_set16 s.regs p n 3#16, Regs.set16_f _ p n⟩,
    runsTwoStores_memWrite16 (x := s.regs.sp) rfl rfl, runsOnRegs_of_exec 4 rfl rfl rfl⟩

/-- Settles O16: both are `addSigned`, the flags written after the sum. -/
theorem spPlusOffset : Obligations.SpPlusOffset := by
  intro s e f
  rw [← sext16_eq_signed]
  exact ⟨runsOnRegs_of_exec 4 rfl rfl ⟨s.regs.hl_setHl _, s.regs.keep_setHl_flags _ _ _, rfl, rfl, rfl⟩,
    runsOnRegs_of_exec 8 rfl rfl rfl⟩

/-- Settles O17: the flags' byte is F as R24 packs it. -/
theorem pushes : Obligations.Pushes := fun _ _ => ⟨runsPush_push16 rfl rfl, runsPush_push16 rfl rfl⟩

/-- Settles O18: the pair, or A and the flags, are loaded after SP and PC. -/
theorem pops : Obligations.Pops := by
  intro s p
  refine ⟨runsPop_of_exec (fun w r => r.set16 (pairOf p) w) rfl rfl ?_,
    runsPop_of_exec (fun w r => r.setAf w) rfl rfl ?_⟩
  · refine ⟨Regs.get16_set16_same _ _ _, fun q hq hsp => ?_, Regs.set16_a _ _ _, Regs.set16_f _ _ _,
      Regs.set16_pairOf_sp _ _ _, Regs.set16_pc _ _ _⟩
    rw [Regs.get16_set16_other _ _ hq, Regs.get16_sp_pc _ _ _ hsp]
  · rw [Regs.setAf, Flags.ofByte_loByte]
    rfl

/-- Settles O19: after the two stores SP shows the pair's low byte and SP + 1 its high byte. -/
theorem pushThenPop : Obligations.PushThenPop := by
  intro s p q c d hs hk hc hd hne
  have hwrite := State.busWrite_eq_storeCell (hiByte (s.regs.get16 (pairOf p))) hc
  have hwrite' := State.busWrite_eq_storeCell (loByte (s.regs.get16 (pairOf p)))
    ((State.storedCell_storeCell s c (hiByte (s.regs.get16 (pairOf p))) _).trans hd)
  obtain ⟨readsHigh, readsLow⟩ := State.answer_storeCell_storeCell _ _ hs hk hc hd hne
  have slot : s.regs.sp - 2#16 + 1#16 = s.regs.sp - 1#16 := by bv_omega
  rw [← slot] at readsHigh
  refine ⟨_, _, exec_pushRr_of_accepted hwrite hwrite', exec_popRr_of_answer readsLow readsHigh, ?_, ?_⟩
  · exact (Regs.get16_set16_same _ _ _).trans (hiByte_append_loByte _)
  · exact (Regs.set16_pairOf_sp _ _ _).trans (BitVec.sub_add_cancel _ _)

/-- Settles O22: each is one `call`, of the address after the instruction. -/
theorem calls : Obligations.Calls := by
  intro s cc a v
  rw [condTrue_iff_holds, ← rstVector_eq]
  exact ⟨runsPush_call rfl rfl, fun h => runsPush_call rfl (if_pos h),
    fun h => runsOnRegs_of_exec 0 rfl (if_neg h) rfl, runsPush_call rfl rfl⟩

/-- Settles O46: dispatch is a push in the state with the request acknowledged. -/
theorem dispatch : Obligations.Dispatch := by
  refine ⟨fun s h => h.elim State.service_of_ime_false State.service_of_pending_zero, ⟨rfl, rfl, rfl, rfl, rfl⟩,
    fun s u1 u2 i hime hi hlow h1 h2 => ?_, fun s hime hpending => ?_, fun s i hime hi hlow h => ?_,
    fun s u1 i hime hi hlow h1 h2 => ?_⟩
  · rw [State.service_of_firstSource hime (firstSource_of_lowest hi hlow), State.takeInterrupt_of_accepted h1 h2]
    rfl
  · obtain ⟨i, hi⟩ := Option.ne_none_iff_exists'.mp (mt (firstSource_eq_none_iff _).mp hpending)
    rw [State.service_of_firstSource hime hi, State.takeInterrupt_ime]
  · rw [State.service_of_firstSource hime (firstSource_of_lowest hi hlow), State.takeInterrupt_of_none h]
    exact ⟨rfl, rfl, s.regs.keep_sp _, rfl, rfl, rfl, rfl, rfl, rfl, fun _ => rfl, fun _ => rfl⟩
  · obtain ⟨-, hu, -, hhalted, -, -, -, htotal, -⟩ := State.busWrite_keeps h1
    rw [State.service_of_firstSource hime (firstSource_of_lowest hi hlow), State.takeInterrupt_of_some_none h1 h2]
    exact ⟨rfl, rfl, s.regs.keep_sp _, rfl, hu, rfl, hhalted, htotal, rfl, fun _ => rfl, fun _ => rfl⟩

end Sys2Proof.Proofs

/-! PROOFS. 16-bit arithmetic (43_alu16.md R280 to R282): ADD HL,rr is the sum of two words on naturals; INC rr and
DEC rr write a pair. -/

namespace Sys2Proof.Machine

theorem addWords_toNat (a x : Word) (f : Flags) : (addWords a x f).1.toNat = (a.toNat + x.toNat) % 65536 :=
  BitVec.toNat_add a x

theorem addWords_flags (a x : Word) (f : Flags) :
    (addWords a x f).2 = ⟨f.z, false, decide (a.toNat % 4096 + x.toNat % 4096 > 0xFFF),
      decide (a.toNat + x.toNat > 0xFFFF)⟩ := rfl

end Sys2Proof.Machine

namespace Sys2Proof.Proofs

open Sys2Proof.Machine Sys2Proof.Claims

/-- Settles O20: ADD HL,rr writes HL and then the flags of the sum; INC rr and DEC rr write the pair after PC. -/
theorem wordArithmetic : Obligations.WordArithmetic := by
  intro s p
  have hsum : (s.regs.setHl (addWords s.regs.hl (s.regs.get16 p) s.regs.f).1).hl.toNat =
      (s.regs.hl.toNat + (s.regs.get16 p).toNat) % 65536 := by
    rw [Regs.hl_setHl, addWords_toNat]
  exact ⟨runsOnRegs_of_exec 4 rfl rfl ⟨hsum, addWords_flags .., s.regs.keep_setHl_flags _ _ _, rfl, rfl⟩,
    runsOnRegs_of_exec 4 rfl rfl ⟨setsPair_set16 s.regs p _ 1#16, Regs.set16_f _ p _⟩,
    runsOnRegs_of_exec 4 rfl rfl ⟨setsPair_set16 s.regs p _ 1#16, Regs.set16_f _ p _⟩⟩

end Sys2Proof.Proofs

/-! PROOFS. Jumps and returns (44_control.md R290 to R295, R298 to R300): a jump writes PC; RET, RET cc and RETI share
one pop into PC. -/

namespace Sys2Proof.Machine

open Sys2Proof.Claims

/-- A return (R298): the popped word in PC, SP past it, 12 cycles. -/
theorem State.popPc_eq (s : State) : s.popPc =
    ((s.setRegs { s.regs with sp := s.regs.sp + 2#16, pc := s.poppedWord }).drew s.popDraws).spend 12 := by
  rw [State.popPc, State.pop16_eq, State.setPc, State.spend_setRegs, State.spend_spend]
  rfl

/-- RETI (R300) is a return that also sets IME. -/
theorem State.returnFromInterrupt_eq (s : State) : s.returnFromInterrupt = { s.popPc with ime := true } := rfl

/-- The instruction spends `m` cycles and returns, with IME `b` after. -/
theorem runsPop_popPc {s : State} {i : Instr} {bytes : List Byte} {cycles : Nat} {len : Word} (b : Bool) (m : Nat)
    (hbytes : encode i = bytes)
    (hexec : exec i (s.fetched i) = .next { (((s.fetched i).advance len).spend m).popPc with ime := b })
    (hcycles : 4 * bytes.length + m + 12 = cycles := by rfl) :
    runsPop s i bytes { s with ime := b } cycles (fun w r t => t = { r with sp := r.sp + 2#16, pc := w }) := by
  subst hbytes hcycles
  rw [State.advance_fetched, State.spend_spend, State.popPc_eq, State.spend_setRegs, State.spend_drew,
    State.spend_spend] at hexec
  exact ⟨rfl, _, hexec, rfl, fun _ => rfl, rfl⟩

end Sys2Proof.Machine

namespace Sys2Proof.Proofs

open Sys2Proof.Machine Sys2Proof.Claims

/-- Settles O21: each form writes PC alone, by the condition where it has one, and spends 4 cycles more when it jumps to
its operand's target. -/
theorem jumps : Obligations.Jumps := by
  intro s cc a e
  rw [condTrue_iff_holds, ← sext16_eq_signed]
  exact ⟨runsOnRegs_of_exec 4 rfl rfl rfl,
    fun h => runsOnRegs_of_exec 4 rfl (congrArg Host.Outcome.next (if_pos h)) rfl,
    fun h => runsOnRegs_of_exec 0 rfl (congrArg Host.Outcome.next (if_neg h)) rfl,
    runsOnRegs_of_exec 0 rfl rfl rfl, runsOnRegs_of_exec 4 rfl rfl rfl,
    fun h => runsOnRegs_of_exec 4 rfl (congrArg Host.Outcome.next (if_pos h)) rfl,
    fun h => runsOnRegs_of_exec 0 rfl (congrArg Host.Outcome.next (if_neg h)) rfl⟩

/-- Settles O23: each form is one `popPc`, RET cc by the condition and 4 cycles later. -/
theorem returns : Obligations.Returns := by
  intro s cc
  rw [condTrue_iff_holds]
  exact ⟨runsPop_popPc s.ime 0 rfl rfl,
    fun h => runsPop_popPc s.ime 4 rfl (congrArg Host.Outcome.next (if_pos h)),
    fun h => runsOnRegs_of_exec 4 rfl (congrArg Host.Outcome.next (if_neg h)) rfl,
    runsPop_popPc true 0 rfl (congrArg Host.Outcome.next (State.returnFromInterrupt_eq _))⟩

end Sys2Proof.Proofs

/-! PROOFS. Miscellaneous and system instructions (45_misc_system.md R320 to R332) and EI's delay (R324, R522): the
rotates are the table of 46_cb_prefixed.md section 1 on natural numbers, and a pending EI is IME set one step later. -/

namespace Sys2Proof.Machine

open Sys2Proof.Claims

/-! ### Rotates and shifts as numbers -/

theorem shiftUp_toNat (v : Byte) (low : Bool) : (shiftUp v low).toNat = v.toNat % 128 * 2 + bit low := by
  rw [shiftUp, BitVec.toNat_append, BitVec.extractLsb'_toNat, BitVec.toNat_ofBool, ← Nat.shiftLeft_add_eq_or_of_lt]
  · cases low <;> simp [Nat.shiftLeft_eq, bit]
  · exact low.toNat_lt

theorem shiftDown_toNat (v : Byte) (high : Bool) : (shiftDown v high).toNat = bit high * 128 + v.toNat / 2 := by
  have hv := v.isLt
  have half : v.toNat / 2 < 128 := by omega
  rw [shiftDown, BitVec.toNat_append, BitVec.extractLsb'_toNat, BitVec.toNat_ofBool, ← Nat.shiftLeft_add_eq_or_of_lt]
  · cases high <;> simp [Nat.shiftLeft_eq, Nat.shiftRight_eq_div_pow, bit, Nat.mod_eq_of_lt half]
  · exact Nat.mod_lt _ (by decide)

theorem swapNibbles_toNat (v : Byte) :
    (v.extractLsb' 0 4 ++ v.extractLsb' 4 4).toNat = v.toNat % 16 * 16 + v.toNat / 16 := by
  have hv := v.isLt
  have high : v.toNat / 16 < 16 := by omega
  rw [BitVec.toNat_append, BitVec.extractLsb'_toNat, BitVec.extractLsb'_toNat, ← Nat.shiftLeft_add_eq_or_of_lt]
  · simp [Nat.shiftLeft_eq, Nat.shiftRight_eq_div_pow, Nat.mod_eq_of_lt high]
  · exact Nat.mod_lt _ (by decide)

theorem getLsbD_seven (v : Byte) : v.getLsbD 7 = decide (v.toNat / 128 = 1) := by
  have hv := v.isLt
  rw [BitVec.getLsbD, Nat.testBit_eq_decide_div_mod_eq]
  exact decide_eq_decide.mpr (by omega)

theorem getLsbD_zero (v : Byte) : v.getLsbD 0 = decide (v.toNat % 2 = 1) := by
  rw [BitVec.getLsbD, Nat.testBit_zero]

theorem bit_getLsbD_seven (v : Byte) : bit (v.getLsbD 7) = v.toNat / 128 := by
  have hv := v.isLt
  have binary : v.toNat / 128 = 0 ∨ v.toNat / 128 = 1 := by omega
  rw [getLsbD_seven]
  rcases binary with h | h <;> rw [h] <;> rfl

theorem bit_getLsbD_zero (v : Byte) : bit (v.getLsbD 0) = v.toNat % 2 := by
  rw [getLsbD_zero]
  rcases Nat.mod_two_eq_zero_or_one v.toNat with h | h <;> rw [h] <;> rfl

theorem map_shiftUp (v : Byte) (low : Bool) : (shiftUp v low, v.getLsbD 7).map BitVec.toNat id =
    (v.toNat % 128 * 2 + bit low, decide (v.toNat / 128 = 1)) :=
  Prod.ext (shiftUp_toNat v low) (getLsbD_seven v)

theorem map_shiftDown (v : Byte) (high : Bool) : (shiftDown v high, v.getLsbD 0).map BitVec.toNat id =
    (bit high * 128 + v.toNat / 2, decide (v.toNat % 2 = 1)) :=
  Prod.ext (shiftDown_toNat v high) (getLsbD_zero v)

/-- The rotates and shifts are the table of 46_cb_prefixed.md section 1. -/
theorem rot_eq_rotRow (op : RotOp) (v : Byte) (c : Bool) :
    (rot op v c).map BitVec.toNat id = rotRow op v.toNat (bit c) := by
  cases op with
  | rlc => rw [rot, map_shiftUp, bit_getLsbD_seven, rotRow]
  | rl => exact map_shiftUp v c
  | sla => exact map_shiftUp v false
  | rrc => rw [rot, map_shiftDown, bit_getLsbD_zero, rotRow]
  | rr => exact map_shiftDown v c
  | sra => rw [rot, map_shiftDown, bit_getLsbD_seven, rotRow]
  | srl => rw [rot, map_shiftDown, bit, if_neg Bool.false_ne_true, Nat.zero_mul, Nat.zero_add, rotRow]
  | swap => exact congrArg (·, false) (swapNibbles_toNat v)

theorem rot_toNat (op : RotOp) (v : Byte) (c : Bool) : (rot op v c).1.toNat = (rotRow op v.toNat (bit c)).1 :=
  congrArg Prod.fst (rot_eq_rotRow op v c)

theorem rot_out (op : RotOp) (v : Byte) (c : Bool) : (rot op v c).2 = (rotRow op v.toNat (bit c)).2 :=
  congrArg Prod.snd (rot_eq_rotRow op v c)

theorem xor_0xFF_toNat (v : Byte) : (v ^^^ 0xFF#8).toNat = 255 - v.toNat := by
  rw [show (0xFF#8 : Byte) = BitVec.allOnes 8 from rfl, BitVec.xor_allOnes, BitVec.toNat_not]

/-- The instruction rotates A by `op`, with Z cleared (R329 to R332). -/
theorem runsOnRegs_rotA {s : State} {i : Instr} {bytes : List Byte} {cycles : Nat} {op : RotOp}
    (hbytes : encode i = bytes) (hexec : exec i (s.fetched i) = .next ((s.fetched i).rotA op))
    (hcycles : 4 * bytes.length = cycles := by rfl) :
    runsOnRegs s i bytes cycles (fun r t =>
      t.a.toNat = (rotRow op r.a.toNat (bit r.f.c)).1
      ∧ t.f = ⟨false, false, false, (rotRow op r.a.toNat (bit r.f.c)).2⟩
      ∧ r.keep t [.a] ∧ t.sp = r.sp ∧ t.pc = r.pc + 1#16) := by
  refine runsOnRegs_set_flags (x := .a) hbytes hexec (fun t hv hf hkeep hsp hpc => ?_) hcycles
  rw [← rot_toNat, ← rot_out]
  exact ⟨congrArg BitVec.toNat hv, hf, hkeep, hsp, hpc⟩

/-! ### The speed switch (R322) -/

theorem State.speedSwitch_of_armed {s : State} (hcgb : s.cgb = true) (harmed : s.key1Prepare = true) :
    s.speedSwitch = { s with key1Speed := !s.key1Speed, key1Prepare := false } :=
  if_pos (by rw [hcgb, harmed]; rfl)

theorem State.speedSwitch_of_unarmed {s : State} (h : s.cgb = false ∨ s.key1Prepare = false) : s.speedSwitch = s :=
  if_neg (by rcases h with h | h <;> simp [h])

/-! ### The step around EI -/

/-- A step that fetches ends where the instruction fetched does, but for what follows it (R430). -/
theorem step_of_canFetch {s u : State} (hfetch : s.takeArrivals.canFetch)
    (hexec : exec s.begun.fetch.1 s.begun.fetch.2 = .next u) : step s = .next u.afterInstr := by
  obtain ⟨hfault, hhalted, hbreak⟩ := hfetch
  rw [s.takeArrivals_eq] at hfault
  exact step_of_cases hfault (.inr (.inr ⟨hbreak, hhalted, u, hexec, rfl⟩))

/-- Where the byte at PC is that of EI, the fetch is one bus read, and EI then moves PC and sets `eiPending`. -/
theorem exec_fetch_of_ei {s : State} (h : s.peek s.regs.pc = 0xFB#8) : exec s.fetch.1 s.fetch.2 =
    .next { (s.afterRead s.regs.pc).advance 1#16 with eiPending := true } := by
  rw [State.fetch_of_lengthOf_one (by rw [h]; rfl), h]
  rfl

/-- With IME 0, what follows an instruction is the count, the Timer's advance and the wake-up, with no dispatch. -/
theorem State.afterInstr_of_ime_false {s : State} (hfault : s.fault = none) (hime : s.ime = false) :
    ∃ timer req halted, s.afterInstr = { s with
      totalI := s.totalI + 1, timer := timer, requested := req, timerDebt := 0, halted := halted } := by
  obtain ⟨timer, req, htimer, -⟩ := s.countInstr.timerAdvance_frame s.timerDebt
  have hpaid : s.countInstr.payTimer =
      { s.countInstr with timer := timer, requested := req, timerDebt := 0 } :=
    congrArg (fun u : State => { u with timerDebt := 0 }) htimer
  obtain ⟨halted, hwake⟩ := s.countInstr.payTimer.wake_frame
  rw [hpaid] at hwake
  have hafter : s.afterInstr = s.countInstr.finishStep := if_neg (by simp [hfault])
  refine ⟨timer, req, halted, ?_⟩
  rw [hafter, State.finishStep, hpaid, hwake]
  exact State.service_of_ime_false hime

/-- Collaborators' attempts neither read nor change IME and the pending EI. -/
theorem State.attemptAll_setIme (s : State) (b p : Bool) (is : List Attempt) :
    State.attemptAll { s with ime := b, eiPending := p } is = { s.attemptAll is with ime := b, eiPending := p } := by
  induction is generalizing s with
  | nil => rfl
  | cons i is ih => exact ih (s.attempt i.source)

theorem State.takeArrivals_setIme (s : State) (b p : Bool) :
    State.takeArrivals { s with ime := b, eiPending := p } = { s.takeArrivals with ime := b, eiPending := p } := by
  obtain ⟨arrivals, harr⟩ : ∃ arrivals, s.arrivals = arrivals := ⟨_, rfl⟩
  cases arrivals with
  | nil => rw [State.takeArrivals_nil harr, State.takeArrivals_nil (s := { s with ime := b, eiPending := p }) harr]
  | cons now later =>
    rw [State.takeArrivals_cons harr, State.takeArrivals_cons (s := { s with ime := b, eiPending := p }) harr]
    exact State.attemptAll_setIme { s with arrivals := later } b p now

/-- Phase 1 sets IME from a pending EI: IME set already and no EI pending come to the same. -/
theorem State.activateEi_of_eiPending {s : State} (h : s.eiPending = true) :
    State.activateEi { s with ime := true, eiPending := false } = s.activateEi := by
  rw [State.activateEi, State.activateEi, h, Bool.or_true]
  rfl

/-- The phases see the state through phase 1. -/
theorem stepPhases_congr {s t : State} (h : t.activateEi = s.activateEi) : stepPhases t = stepPhases s := by
  have hfault : t.fault = s.fault := by
    change t.activateEi.fault = s.activateEi.fault
    rw [h]
  rw [stepPhases, stepPhases, hfault, h]

end Sys2Proof.Machine

namespace Sys2Proof.Proofs

open Sys2Proof.Machine Sys2Proof.Claims

/-- Settles O25: DAA writes A and then the flags, both of them those of the algorithm. -/
theorem daaAlgorithm : Obligations.DaaAlgorithm := by
  intro s
  refine runsOnRegs_set_flags (x := .a) rfl rfl fun t hv hf hkeep hsp hpc => ?_
  exact ⟨(congrArg BitVec.toNat hv).trans (daa_toNat _ _), hf.trans (daa_flags _ _), hkeep, hsp, hpc⟩

/-- Settles O27: CPL writes A and the flags, SCF and CCF the flags alone, and the rotates of A are the CB page's with Z
cleared. -/
theorem accumulatorAndFlagOps : Obligations.AccumulatorAndFlagOps := by
  intro s
  refine ⟨runsOnRegs_set_flags (x := .a) rfl rfl fun t hv hf hkeep hsp hpc => ?_,
    runsOnRegs_of_exec 0 rfl rfl rfl, runsOnRegs_of_exec 0 rfl rfl rfl, runsOnRegs_rotA rfl rfl,
    runsOnRegs_rotA rfl rfl, runsOnRegs_rotA rfl rfl, runsOnRegs_rotA rfl rfl⟩
  exact ⟨(congrArg BitVec.toNat hv).trans (xor_0xFF_toNat _), hf, hkeep, hsp, hpc⟩

/-- Settles O47: EI leaves IME 0, so what follows it dispatches nothing; a pending EI is taken before anything else of
the step is decided, and collaborators do not see it. -/
theorem eiDelay : Obligations.EiDelay := by
  refine ⟨fun s₀ => ?_, fun s hpending => ?_⟩
  · intro s hfetch hpeek hime hpending
    have hbegun : s₀.begun.ime = false := by
      change (s.ime || s.eiPending) = false
      rw [hime, hpending]
      rfl
    refine ⟨_, step_of_canFetch hfetch (exec_fetch_of_ei (s := s₀.begun) hpeek), ?_⟩
    obtain ⟨timer, req, halted, h⟩ := State.afterInstr_of_ime_false
      (s := { (s₀.begun.afterRead s₀.begun.regs.pc).advance 1#16 with eiPending := true }) hfetch.1 hbegun
    rw [h]
    exact ⟨hbegun, rfl, rfl⟩
  · have harrived : s.takeArrivals.eiPending = true := by
      rw [s.takeArrivals_eq]
      exact hpending
    calc step s
        _ = stepPhases { s.takeArrivals with ime := true, eiPending := false } :=
          (stepPhases_congr (State.activateEi_of_eiPending harrived)).symm
        _ = step { s with ime := true, eiPending := false } :=
          congrArg stepPhases (s.takeArrivals_setIme true false).symm

/-- Settles O24: each equation is the instruction's meaning after the fetch, STOP's by the two cases of the speed
switch. -/
theorem systemInstructions : Obligations.SystemInstructions := by
  intro s n
  exact ⟨⟨rfl, rfl⟩, ⟨rfl, rfl⟩,
    fun hcgb harmed => ⟨rfl, congrArg Host.Outcome.next (State.speedSwitch_of_armed hcgb harmed)⟩,
    fun h => ⟨rfl, congrArg Host.Outcome.next (State.speedSwitch_of_unarmed h)⟩, ⟨rfl, rfl⟩, ⟨rfl, rfl⟩⟩

end Sys2Proof.Proofs

/-! PROOFS. The CB page (46_cb_prefixed.md R350 to R372): a rotate writes its operand and the flags of the table's row,
BIT the flags alone, RES and SET one bit of the operand. -/

namespace Sys2Proof.Machine

open Sys2Proof.Claims

/-! ### Results and flags -/

theorem rot_fst_eq_ofNat (op : RotOp) (v : Byte) (c : Bool) :
    (rot op v c).1 = BitVec.ofNat 8 (rotRow op v.toNat (bit c)).1 := by
  rw [← rot_toNat, BitVec.ofNat_toNat, BitVec.setWidth_eq]

theorem rotFlags_rot (op : RotOp) (v : Byte) (c : Bool) : rotFlags (rot op v c) =
    ⟨decide ((rotRow op v.toNat (bit c)).1 = 0), false, false, (rotRow op v.toNat (bit c)).2⟩ := by
  rw [← rot_toNat, ← rot_out, ← beq_zero_eq_decide_toNat]
  rfl

theorem getLsbD_bitMask (b : BitVec 3) (k : Nat) : (bitMask b).getLsbD k = decide (k = b.toNat) := by
  have shifted : bitMask b = BitVec.twoPow 8 b.toNat := (BitVec.twoPow_eq 8 b.toNat).symm
  rw [shifted, BitVec.getLsbD_twoPow, decide_eq_true b.isLt, Bool.true_and]
  exact decide_eq_decide.mpr eq_comm

theorem getLsbD_bitClear (b : BitVec 3) (v : Byte) {k : Nat} (hk : k < 8) :
    (bitClear b v).getLsbD k = (v.getLsbD k && decide (k ≠ b.toNat)) := by
  rw [bitClear, BitVec.getLsbD_and, BitVec.getLsbD_not, getLsbD_bitMask, decide_eq_true hk, Bool.true_and,
    decide_not]

theorem getLsbD_bitSet (b : BitVec 3) (v : Byte) (k : Nat) :
    (bitSet b v).getLsbD k = (v.getLsbD k || decide (k = b.toNat)) := by
  rw [bitSet, BitVec.getLsbD_or, getLsbD_bitMask]

/-! ### The forms of a run -/

section Courses

variable {s : State} {i : Instr} {bytes : List Byte}

/-- The instruction rotates the register `x` by `op`, by the table. -/
theorem runsOnRegs_rotReg {op : RotOp} {x : Reg8} (hbytes : encode i = bytes)
    (hexec : exec i (s.fetched i) = .next ((s.fetched i).rotReg op x)) (hcycles : 4 * bytes.length = 8 := by rfl) :
    runsOnRegs s i bytes 8 (fun r t =>
      (t.get x).toNat = (rotRow op (r.get x).toNat (bit r.f.c)).1
      ∧ t.f = ⟨decide (t.get x = 0#8), false, false, (rotRow op (r.get x).toNat (bit r.f.c)).2⟩
      ∧ r.keep t [x] ∧ t.sp = r.sp ∧ t.pc = r.pc + 2#16) := by
  refine runsOnRegs_set_flags hbytes hexec (fun t hv hf hkeep hsp hpc => ?_) hcycles
  rw [← rot_toNat, ← rot_out, hv, hf, rotFlags, Bool.beq_eq_decide_eq]
  exact ⟨rfl, rfl, hkeep, hsp, hpc⟩

/-- No data access: PC past the instruction, then the register `x` written, and no flag. -/
theorem runsOnRegs_setReg {x : Reg8} {v : Byte} {len : Word} {cycles : Nat} {post : Regs → Regs → Prop}
    (hbytes : encode i = bytes)
    (hexec : exec i (s.fetched i) = .next (((s.fetched i).advance len).setReg x v))
    (hpost : ∀ t, setsReg x v len s.regs t → post s.regs t) (hcycles : 4 * bytes.length = cycles := by rfl) :
    runsOnRegs s i bytes cycles post :=
  runsOnRegs_of_exec 0 hbytes hexec (hpost _ (setsReg_set s.regs x v len)) hcycles

/-- The instruction rotates the byte at HL by `op`, the flags written before the store. -/
theorem runsUpdate_rotHl {op : RotOp} (hbytes : encode i = bytes)
    (hexec : exec i (s.fetched i) = ((s.fetched i).rotHl (s.site i) op).outcome)
    (hcycles : 4 * bytes.length + 8 = 16 := by rfl) :
    let result (v : Byte) : Nat × Bool := rotRow op v.toNat (bit s.regs.f.c)
    runsUpdate s i bytes s.regs.hl (fun v => BitVec.ofNat 8 (result v).1) 16 (fun v r t =>
      t = { r with f := ⟨decide ((result v).1 = 0), false, false, (result v).2⟩, pc := r.pc + 2#16 }) := by
  simp only [← rot_fst_eq_ofNat, ← rotFlags_rot]
  exact runsUpdate_of_exec id hbytes hexec (fun _ h => h ▸ rfl) rfl hcycles

/-- The instruction replaces the byte at HL and does nothing else. -/
theorem runsUpdate_modifyHl {g : Byte → Byte} (hbytes : encode i = bytes)
    (hexec : exec i (s.fetched i) = ((s.fetched i).modifyHl (s.site i) g).outcome)
    (hcycles : 4 * bytes.length + 8 = 16 := by rfl) :
    runsUpdate s i bytes s.regs.hl g 16 (fun _ r t => t = { r with pc := r.pc + 2#16 }) :=
  runsUpdate_of_exec id hbytes hexec (fun t h => congrArg (fun w => Flow.ok (t.setRegs w)) h) rfl hcycles

end Courses

end Sys2Proof.Machine

namespace Sys2Proof.Proofs

open Sys2Proof.Machine Sys2Proof.Claims

/-- Settles O28: each row is one `rotReg`. -/
theorem rotateRegister : Obligations.RotateRegister := fun _ _ =>
  ⟨runsOnRegs_rotReg rfl rfl, runsOnRegs_rotReg rfl rfl, runsOnRegs_rotReg rfl rfl, runsOnRegs_rotReg rfl rfl,
    runsOnRegs_rotReg rfl rfl, runsOnRegs_rotReg rfl rfl, runsOnRegs_rotReg rfl rfl, runsOnRegs_rotReg rfl rfl⟩

/-- Settles O29: each row is one `rotHl`. -/
theorem rotateMemory : Obligations.RotateMemory := fun _ =>
  ⟨runsUpdate_rotHl rfl rfl, runsUpdate_rotHl rfl rfl, runsUpdate_rotHl rfl rfl, runsUpdate_rotHl rfl rfl,
    runsUpdate_rotHl rfl rfl, runsUpdate_rotHl rfl rfl, runsUpdate_rotHl rfl rfl, runsUpdate_rotHl rfl rfl⟩

/-- Settles O30: BIT writes the flags after PC; RES and SET write their operand, of which one bit is cleared or set. -/
theorem bitInstructions : Obligations.BitInstructions := by
  intro s b x
  refine ⟨runsOnRegs_of_exec 0 rfl rfl rfl, runsRead_of_exec rfl rfl rfl, runsOnRegs_setReg rfl rfl ?_,
    runsOnRegs_setReg rfl rfl ?_, runsUpdate_modifyHl rfl rfl, runsUpdate_modifyHl rfl rfl⟩
  · rintro t ⟨hv, hkeep, hflow⟩
    exact ⟨fun k hk => (congrArg (BitVec.getLsbD · k) hv).trans (getLsbD_bitClear b _ hk), hkeep, hflow⟩
  · rintro t ⟨hv, hkeep, hflow⟩
    exact ⟨fun k _ => (congrArg (BitVec.getLsbD · k) hv).trans (getLsbD_bitSet b _ k), hkeep, hflow⟩

end Sys2Proof.Proofs

/-! PROOFS. The Timer's advance (60_exceptions.md R443): each loop, run to its end, subtracts its period as often as the
division says. -/

namespace Sys2Proof.Machine

open Sys2Proof.Claims

/-! ### The divider's loop -/

/-- The divider with its accumulator divided by 256. -/
def Timer.divided (t : Timer) : Timer :=
  { t with div := t.div + BitVec.ofNat 8 (t.divAcc / 256), divAcc := t.divAcc % 256 }

theorem Timer.divided_of_lt {t : Timer} (h : t.divAcc < 256) : t.divided = t := by
  rw [Timer.divided, Nat.div_eq_of_lt h, Nat.mod_eq_of_lt h, BitVec.add_zero]

theorem Timer.divided_of_le {t : Timer} (h : 256 ≤ t.divAcc) :
    t.divided = Timer.divided { t with divAcc := t.divAcc - 256, div := t.div + 1#8 } := by
  have hdiv : t.divAcc / 256 = 1 + (t.divAcc - 256) / 256 := by omega
  simp only [Timer.divided]
  rw [hdiv, ← BitVec.ofNat_add_ofNat, ← BitVec.add_assoc, Nat.mod_eq_sub_mod h]

/-- With fuel for the accumulator, the divider's loop is the division. -/
theorem divLoop_eq_divided (fuel : Nat) (t : Timer) (h : t.divAcc ≤ fuel) : divLoop fuel t = t.divided := by
  induction fuel generalizing t with
  | zero => exact (Timer.divided_of_lt (Nat.lt_of_le_of_lt h (by decide))).symm
  | succ fuel ih =>
    rw [divLoop]
    split
    case isTrue hle => rw [Timer.divided_of_le hle, ih _ (by dsimp only; omega)]
    case isFalse hlt => rw [Timer.divided_of_lt (by omega)]

theorem divLoop_eq_advanceDiv (t : Timer) (n : Nat) :
    divLoop (t.divAcc + n) { t with divAcc := t.divAcc + n } = t.advanceDiv n :=
  divLoop_eq_divided _ _ (Nat.le_refl _)

/-! ### The counter's loop -/

/-- The state with another value in the counter's accumulator. -/
def State.withTimaAcc (s : State) (acc : Nat) : State := { s with timer := { s.timer with timaAcc := acc } }

/-- Increments of TIMA neither read nor change the accumulator. -/
theorem State.timerTicks_withTimaAcc (s : State) (acc k : Nat) :
    (s.withTimaAcc acc).timerTicks k = (s.timerTicks k).withTimaAcc acc := by
  induction k generalizing s with
  | zero => rfl
  | succ k ih =>
    simp only [State.timerTicks]
    rw [← ih]
    change State.timerTicks (if s.timer.tima = 0xFF#8 then _ else _) k = _
    split <;> rfl

/-- The reload of TIMA on overflow (R443). -/
def State.reloadTima (s : State) : State := { s with timer := { s.timer with tima := s.timer.tma } }

theorem State.timerTicks_one_of_overflow {s : State} (h : s.timer.tima = 0xFF#8) :
    s.timerTicks 1 = s.reloadTima.attempt .timer := by
  simp only [State.timerTicks, Timer.tick, if_pos h]
  rfl

theorem State.timerTicks_one_of_no_overflow {s : State} (h : s.timer.tima ≠ 0xFF#8) :
    s.timerTicks 1 = { s with timer := { s.timer with tima := s.timer.tima + 1#8 } } := by
  simp only [State.timerTicks, Timer.tick, if_neg h]

/-- A round of the counter's loop takes a period off the accumulator and increments TIMA once. -/
theorem timaLoop_succ_of_le {p : Nat} (fuel : Nat) {s : State} (h : p ≤ s.timer.timaAcc) :
    timaLoop p (fuel + 1) s = timaLoop p fuel ((s.timerTicks 1).withTimaAcc (s.timer.timaAcc - p)) := by
  rw [timaLoop, if_pos h]
  by_cases hover : s.timer.tima = 0xFF#8
  · rw [State.timerTicks_one_of_overflow hover]
    dsimp only
    rw [if_pos hover]
    split
    case isTrue henabled => rw [State.attempt_of_enabled (s := s.reloadTima) (i := .timer) henabled]; rfl
    case isFalse hdisabled =>
      rw [State.attempt_of_disabled (s := s.reloadTima) (i := .timer) (Bool.eq_false_iff.mpr hdisabled)]
      rfl
  · rw [State.timerTicks_one_of_no_overflow hover]
    exact if_neg hover

/-- The counter's part of the advance with the accumulator divided by the period: as many increments of TIMA as the
period fits. -/
def State.counted (s : State) (p : Nat) : State :=
  (s.withTimaAcc (s.timer.timaAcc % p)).timerTicks (s.timer.timaAcc / p)

theorem State.counted_of_lt {s : State} {p : Nat} (h : s.timer.timaAcc < p) : s.counted p = s := by
  rw [State.counted, Nat.div_eq_of_lt h, Nat.mod_eq_of_lt h]
  rfl

theorem State.counted_of_le {s : State} {p : Nat} (hp : 0 < p) (h : p ≤ s.timer.timaAcc) :
    s.counted p = ((s.timerTicks 1).withTimaAcc (s.timer.timaAcc - p)).counted p := by
  rw [State.counted, Nat.div_eq_sub_div hp h, Nat.mod_eq_sub_mod h]
  change ((s.withTimaAcc _).timerTicks 1).timerTicks _ = _
  rw [State.timerTicks_withTimaAcc]
  rfl

/-- With fuel for the accumulator, the counter's loop is the division by the period. -/
theorem timaLoop_eq_counted {p : Nat} (hp : 0 < p) (fuel : Nat) (s : State) (h : s.timer.timaAcc ≤ fuel) :
    timaLoop p fuel s = s.counted p := by
  induction fuel generalizing s with
  | zero => exact (State.counted_of_lt (Nat.lt_of_le_of_lt h hp)).symm
  | succ fuel ih =>
    rcases Nat.lt_or_ge s.timer.timaAcc p with hlt | hle
    · rw [timaLoop, if_neg (Nat.not_le.mpr hlt), State.counted_of_lt hlt]
    · have hfuel : s.timer.timaAcc - p ≤ fuel := by omega
      rw [timaLoop_succ_of_le fuel hle, ih _ hfuel, State.counted_of_le hp hle]

theorem period_eq_timerPeriod : ∀ speed : BitVec 2, period speed = timerPeriod speed := by decide

/-- Where the Timer runs, its counter advances by the loop. -/
theorem State.advanceTima_of_running {s : State} (n : Nat) (h : s.timer.running = true) :
    s.advanceTima n = timaLoop (period s.timer.speed) (s.timer.timaAcc + n)
      (s.withTimaAcc (s.timer.timaAcc + n)) := by
  rw [period_eq_timerPeriod]
  have loop := timaLoop_eq_counted (timerPeriod_pos s.timer.speed) _ (s.withTimaAcc (s.timer.timaAcc + n))
    (Nat.le_refl _)
  exact (if_pos h).trans loop.symm

end Sys2Proof.Machine

namespace Sys2Proof.Proofs

open Sys2Proof.Machine Sys2Proof.Claims

/-- Settles O49: the divider's loop is `advanceDiv`, and where the Timer runs the counter's loop is `advanceTima`. -/
theorem timerAdvanceIsTheLoops : Obligations.TimerAdvanceIsTheLoops := by
  intro s n
  simp only [State.timerAdvance, advanceLoops, divLoop_eq_advanceDiv]
  split
  case isTrue hrun => exact State.advanceTima_of_running (s := { s with timer := s.timer.advanceDiv n }) n hrun
  case isFalse hstop => exact if_neg hstop

end Sys2Proof.Proofs

/-! PROOFS. The bus registers on a write, and the addresses that a write leaves alone (20_memory.md R82 to R98;
60_exceptions.md R442, R460). -/

namespace Sys2Proof.Machine

/-- The owners that change nothing on a write, two of them without CGB alone. -/
def Target.isInert (cgb : Bool) : Target → Bool
  | .vram | .oam | .unowned | .joypad | .serial | .sound | .gpuHwio => true
  | .key1 | .svbk => !cgb
  | _ => false

theorem State.busWrite_of_isInert {s : State} {a : Word} (v : Byte) (h : (route a).isInert s.cgb = true) :
    s.busWrite a v = some s := by
  unfold State.busWrite
  cases hr : route a <;> rw [hr] at h
  case key1 | svbk => exact if_neg (by simpa [Target.isInert] using h)
  all_goals cases h

/-- The addresses of the collaborators, the hole and the unassigned addresses are those of the inert owners, whose ranges
leave no gap there. -/
theorem inert_owner {n : Nat} {cgb : Bool} (h : (0x8000 ≤ n ∧ n < 0xA000) ∨ (0xFE00 ≤ n ∧ n ≤ 0xFF03)
    ∨ (0xFF08 ≤ n ∧ n ≤ 0xFF0E) ∨ (0xFF10 ≤ n ∧ n ≤ 0xFF4C) ∨ (n = 0xFF4D ∧ cgb = false)
    ∨ (0xFF4E ≤ n ∧ n ≤ 0xFF4F) ∨ (0xFF51 ≤ n ∧ n ≤ 0xFF6F) ∨ (n = 0xFF70 ∧ cgb = false)
    ∨ (0xFF71 ≤ n ∧ n ≤ 0xFF7F)) : ∃ t : Target, t.owns n ∧ t.isInert cgb = true := by
  by_contra hnone
  have free (t : Target) (ht : t.isInert cgb = true) : ¬t.owns n := fun h => hnone ⟨t, h, ht⟩
  have hvram := free .vram rfl
  have hoam := free .oam rfl
  have hunowned := free .unowned rfl
  have hjoypad := free .joypad rfl
  have hserial := free .serial rfl
  have hsound := free .sound rfl
  have hgpu := free .gpuHwio rfl
  have hkey1 (hc : cgb = false) := free .key1 (by simp [Target.isInert, hc])
  have hsvbk (hc : cgb = false) := free .svbk (by simp [Target.isInert, hc])
  dsimp only [Target.owns] at hvram hoam hunowned hjoypad hserial hsound hgpu hkey1 hsvbk
  rcases h with h | h | h | h | ⟨h, hc⟩ | h | h | ⟨h, hc⟩ | h
  any_goals omega
  · exact hkey1 hc h
  · exact hsvbk hc h

theorem byteToSet_eq_setWidth : ∀ v : Byte, byteToSet v = v.setWidth 5 := by decide

theorem Timer.writeTac_eq (t : Timer) (v : Byte) :
    t.writeTac v = { t with speed := v.setWidth 2, running := v.getLsbD 2 } := by
  rw [Timer.writeTac, BitVec.setWidth_eq_extractLsb' (by decide)]

/-- A work-RAM bank of 0 selects bank 1 (10_state.md R38). -/
theorem svbkOf_eq : ∀ v : Byte, svbkOf v = if v.toNat % 8 = 0 then 1#3 else v.setWidth 3 := by decide

end Sys2Proof.Machine

namespace Sys2Proof.Proofs

open Sys2Proof.Machine Sys2Proof.Claims

/-- Settles O36: the owner of each address gives the write. -/
theorem registerWrites : Obligations.RegisterWrites := by
  intro s a v n low
  have owned (t : Target) (h : t.owns n) : route a = t := route_of_owns h
  have inert {t : Target} (h : t.owns n ∧ t.isInert s.cgb = true) : s.busWrite a v = some s :=
    State.busWrite_of_isInert v (by rw [owned t h.1, h.2])
  refine ⟨fun h => ?_, fun h => ?_, fun h => ?_, fun h => ?_, fun h => ?_, fun h => ?_, fun h hc => ?_, fun h hv => ?_,
    fun h hv => ?_, fun h hc hv => ?_, fun h hc hv => ?_, fun h => (inert_owner h).elim fun _ => inert⟩
  · rw [State.busWrite, owned .div h]; rfl
  · rw [State.busWrite, owned .tima h]; rfl
  · rw [State.busWrite, owned .tma h]; rfl
  · rw [State.busWrite, owned .tac h, Timer.writeTac_eq]
  · rw [State.busWrite, owned .interruptFlag h, byteToSet_eq_setWidth]
  · rw [State.busWrite, owned .interruptEnable h, byteToSet_eq_setWidth]
  · rw [State.busWrite, owned .key1 h]; exact if_pos hc
  · rw [State.busWrite, owned .bootLatch h]; exact if_pos hv
  · rw [State.busWrite, owned .bootLatch h]; exact if_neg (Bool.eq_false_iff.mp hv)
  · rw [State.busWrite, owned .svbk h, svbkOf_eq, if_pos hv]; exact if_pos hc
  · rw [State.busWrite, owned .svbk h, svbkOf_eq, if_neg hv]; exact if_pos hc

end Sys2Proof.Proofs

/-! PROOFS. The halted step (60_exceptions.md R430, R432, R464): the Timer's advance adds requests, any request wakes,
and dispatch leaves the run-mode alone. -/

namespace Sys2Proof.Machine

/-! ### Requests are only added -/

theorem Source.attemptOn_eq_or (i : Source) (enabled requested : BitVec 5) :
    ∃ more, i.attemptOn enabled requested = requested ||| more := by
  unfold Source.attemptOn
  split
  · exact ⟨i.mask, rfl⟩
  · exact ⟨0#5, BitVec.or_zero.symm⟩

theorem State.timerTicks_requested (s : State) (k : Nat) :
    ∃ more, (s.timerTicks k).requested = s.requested ||| more := by
  induction k generalizing s with
  | zero => exact ⟨0#5, BitVec.or_zero.symm⟩
  | succ k ih =>
    simp only [State.timerTicks]
    split
    case isTrue =>
      obtain ⟨first, hfirst⟩ := Source.timer.attemptOn_eq_or s.enabled s.requested
      obtain ⟨more, hmore⟩ := ih (State.attempt { s with timer := s.timer.tick } .timer)
      exact ⟨first ||| more, by rw [hmore, State.attempt_requested, hfirst, BitVec.or_assoc]⟩
    case isFalse => exact ih _

/-- Phase 4 changes the Timer, clears the debt and adds requests. -/
theorem State.payTimer_frame (s : State) : ∃ timer more,
    s.payTimer = { s with timer := timer, requested := s.requested ||| more, timerDebt := 0 } := by
  obtain ⟨timer, req, hframe, -⟩ := s.timerAdvance_frame s.timerDebt
  have hadded : ∃ more, (s.timerAdvance s.timerDebt).requested = s.requested ||| more := by
    unfold State.timerAdvance State.advanceTima
    split
    · exact State.timerTicks_requested _ _
    · exact ⟨0#5, BitVec.or_zero.symm⟩
  obtain ⟨more, hmore⟩ := hadded
  refine ⟨timer, more, ?_⟩
  rw [← hmore, State.payTimer, hframe]

/-- With a request before phase 4 there is one after it. -/
theorem State.payTimer_requested_ne_zero {s : State} (h : s.requested ≠ 0#5) : s.payTimer.requested ≠ 0#5 := by
  obtain ⟨timer, more, hpaid⟩ := s.payTimer_frame
  rw [hpaid]
  exact fun hzero => h (BitVec.or_eq_zero_iff.mp hzero).1

/-- With a pending request before phase 4 there is one after it. -/
theorem State.payTimer_pending_ne_zero {s : State} (h : s.requested &&& s.enabled ≠ 0#5) :
    s.payTimer.requested &&& s.payTimer.enabled ≠ 0#5 := by
  obtain ⟨timer, more, hpaid⟩ := s.payTimer_frame
  rw [hpaid]
  change (s.requested ||| more) &&& s.enabled ≠ 0#5
  rw [BitVec.and_comm, BitVec.and_or_distrib_left, BitVec.and_comm]
  exact fun hzero => h (BitVec.or_eq_zero_iff.mp hzero).1

/-- A stopped Timer advances its divider alone (R443). -/
theorem State.payTimer_of_stopped {s : State} (h : s.timer.running = false) :
    s.payTimer = { s with timer := s.timer.advanceDiv s.timerDebt, timerDebt := 0 } := by
  have hadvance : s.timerAdvance s.timerDebt = { s with timer := s.timer.advanceDiv s.timerDebt } :=
    if_neg (by simp [Timer.advanceDiv, h])
  rw [State.payTimer, hadvance]

/-! ### Waking up -/

theorem State.wake_of_request {s : State} (hhalted : s.halted = true) (hreq : s.requested ≠ 0#5) :
    s.wake = { s with halted := false } :=
  if_pos (by simp [hhalted, hreq])

theorem State.wake_of_idle {s : State} (h : s.halted = false ∨ s.requested = 0#5) : s.wake = s :=
  if_neg (by rcases h with h | h <;> simp [h])

/-- Without a request after the Timer's advance, a step ends there. -/
theorem State.finishStep_of_no_request {s : State} (h : s.payTimer.requested = 0#5) : s.finishStep = s.payTimer := by
  have hpending : s.payTimer.requested &&& s.payTimer.enabled = 0#5 := by rw [h, BitVec.zero_and]
  rw [State.finishStep, State.wake_of_idle (.inr h), State.service_of_pending_zero hpending]

/-- The state out of its run-mode (90_conflicts.md C7). -/
def State.awake (s : State) : State := { s with halted := false }

/-- With a request then, a halted core wakes and goes to the dispatch phase. -/
theorem State.finishStep_of_request {s : State} (hhalted : s.halted = true) (h : s.payTimer.requested ≠ 0#5) :
    s.finishStep = s.payTimer.awake.service := by
  obtain ⟨timer, more, hpaid⟩ := s.payTimer_frame
  have hhalted' : s.payTimer.halted = true := by rw [hpaid, hhalted]
  rw [State.finishStep, State.wake_of_request hhalted' h, State.awake]

/-! ### What dispatch leaves alone -/

theorem State.takeInterrupt_unreached (s : State) (i : Source) :
    (s.takeInterrupt i).state.unreached = { s.unreached with ime := false } := by
  have pushed := (State.StoredOnly.refl (s.acknowledge i)).push16 ⟨s.regs.pc, 0x00#8⟩ s.regs.pc
  rw [State.takeInterrupt_eq]
  exact Flow.thenDo_induction (P := fun t => t.unreached = { s.unreached with ime := false }) pushed.unreached
    fun _ ht => ht

theorem State.service_keeps (s : State) : s.service.halted = s.halted ∧ s.service.totalI = s.totalI := by
  rcases s.service_cases with h | ⟨i, -, -, h⟩ <;> rw [h]
  · exact ⟨rfl, rfl⟩
  · have kept := s.takeInterrupt_unreached i
    exact ⟨congrArg Unreached.halted kept, congrArg Unreached.totalI kept⟩

/-- A pending source is dispatched if IME is set, and IME is then clear (R414 to R416). -/
theorem State.service_ime_of_pending {s : State} (hime : s.ime = true) (h : s.requested &&& s.enabled ≠ 0#5) :
    s.service.ime = false := by
  obtain ⟨i, hi⟩ := Option.ne_none_iff_exists'.mp (mt (firstSource_eq_none_iff _).mp h)
  rw [State.service_of_firstSource hime hi, State.takeInterrupt_ime]

/-! ### The step -/

theorem step_of_halted {s : State} (hfault : s.takeArrivals.fault = none) (hhalted : s.takeArrivals.halted = true)
    (hbreak : s.takeArrivals.breakpoints.contains s.takeArrivals.regs.pc = false) :
    step s = .next s.begun.idle.finishStep := by
  rw [s.takeArrivals_eq] at hfault
  exact step_of_cases hfault (.inr (.inl ⟨hbreak, hhalted, rfl⟩))

end Sys2Proof.Machine

namespace Sys2Proof.Proofs

open Sys2Proof.Machine Sys2Proof.Claims

/-- Settles O48: the step ends after the Timer's advance if nothing is requested then; else it wakes, and what is
requested before the Timer's advance is so after it. -/
theorem haltedStep : Obligations.HaltedStep := by
  intro s₀ s u hfault hhalted hbreak
  have hpaid : u = s₀.begun.idle.payTimer := rfl
  have hstep : step s₀ = .next s₀.begun.idle.finishStep := step_of_halted hfault hhalted hbreak
  have hsleep (h : u.requested = 0#5) : step s₀ = .next u := by
    rw [hstep, State.finishStep_of_no_request (s := s₀.begun.idle) h, ← hpaid]
  have hwake (h : u.requested ≠ 0#5) : step s₀ = .next u.awake.service := by
    rw [hstep, State.finishStep_of_request (s := s₀.begun.idle) hhalted h, ← hpaid]
  have hadded (h : s.requested ≠ 0#5) : u.requested ≠ 0#5 :=
    State.payTimer_requested_ne_zero (s := s₀.begun.idle) h
  obtain ⟨timer, more, hframe⟩ := s₀.begun.idle.payTimer_frame
  rw [← hpaid] at hframe
  obtain ⟨hawake, htotal⟩ := u.awake.service_keeps
  have hcount : u.totalI = s.totalI := by rw [hframe]; rfl
  have hregs : u.regs = s.regs := by rw [hframe]; rfl
  have hcycles : u.cycles = s.cycles + 4 := by rw [hframe]; rfl
  have hcells (c : Cell) : u.readCell c = s.readCell c := by rw [hframe]; rfl
  have hime' : u.ime = (s.ime || s.eiPending) := by rw [hframe]; rfl
  have htotal' : u.awake.service.totalI = s.totalI := htotal.trans hcount
  refine ⟨hstep, hsleep, hwake, fun hrun hreq => ?_, fun hreq => ⟨_, hwake (hadded hreq), hawake, htotal'⟩,
    fun hreq hime hei => ?_, fun hime hpend => ?_⟩
  · have hstopped := State.payTimer_of_stopped (s := s₀.begun.idle) hrun
    rw [← hpaid] at hstopped
    rw [hsleep ((congrArg State.requested hstopped).trans hreq), hstopped]
    rfl
  · have hoff : u.ime = false := by rw [hime', hime, hei, Bool.or_self]
    have hserve : u.awake.service = u.awake := State.service_of_ime_false hoff
    refine ⟨_, hwake (hadded hreq), ?_⟩
    rw [hserve]
    exact ⟨rfl, hregs, hcycles, hcount, hoff, hcells⟩
  · have hreq : s.requested ≠ 0#5 := fun hzero => hpend (by rw [hzero, BitVec.zero_and])
    have hon : u.ime = true := hime'.trans (Bool.or_eq_true_iff.mpr hime)
    have hpending : u.requested &&& u.enabled ≠ 0#5 := State.payTimer_pending_ne_zero (s := s₀.begun.idle) hpend
    exact ⟨_, hwake (hadded hreq), hawake, State.service_ime_of_pending (s := u.awake) hon hpending, htotal'⟩

end Sys2Proof.Proofs

/-! PROOFS. The host operations: removal and flush (70_reset_and_hazards.md R512, R513), the breakpoints and the cheat
overlay (60_exceptions.md R450, R451), and the invariant. -/

namespace Sys2Proof.Machine

/-! ### Joined and filtered stores -/

theorem Memory.get?_append (m m' : Memory) (off : Nat) : Memory.get? (m ++ m') off = (m.get? off).or (m'.get? off) := by
  induction m with
  | nil => rfl
  | cons kv m ih =>
    simp only [List.cons_append, Memory.get?]
    split
    · rfl
    · exact ih

/-- A filter by offset leaves what is listed at the offsets it keeps. -/
theorem Memory.get?_filter (m : Memory) {p : Nat → Bool} {off : Nat} (h : p off = true) :
    Memory.get? (m.filter fun kv => p kv.1) off = m.get? off := by
  induction m with
  | nil => rfl
  | cons kv m ih =>
    obtain ⟨k, v⟩ := kv
    rw [List.filter_cons]
    split
    case isTrue => simp only [Memory.get?, ih]
    case isFalse hp =>
      have hne : k ≠ off := fun e => hp (e ▸ h)
      rw [ih, Memory.get?, if_neg hne]

/-- A store made from a byte that is not the known unlisted one, repeated, lists it at every offset. -/
theorem Memory.get?_ofBytes_replicate {u v : Byte} (huv : v ≠ u) {n off : Nat} (h : off < n) :
    (Memory.ofBytes (some u) 0 (List.replicate n v)).get? off = some v := by
  have hbyte := Memory.getD_ofBytes (some u) u (by simp) 0 off (List.replicate n v)
  rw [Nat.zero_add, List.getD_replicate _ h] at hbyte
  cases hget : (Memory.ofBytes (some u) 0 (List.replicate n v)).get? off with
  | none =>
    rw [hget] at hbyte
    exact absurd hbyte.symm huv
  | some w =>
    rw [hget] at hbyte
    exact congrArg some hbyte

/-- A store made from bytes lists nothing past them. -/
theorem Memory.get?_ofBytes_of_length_le {u : Option Byte} {bytes : List Byte} {base off : Nat}
    (h : base + bytes.length ≤ off) : (Memory.ofBytes u base bytes).get? off = none := by
  induction bytes generalizing base with
  | nil => rfl
  | cons v bytes ih =>
    rw [List.length_cons] at h
    have rest := ih (base := base + 1) (by omega)
    rw [Memory.ofBytes]
    split
    · exact rest
    · rw [Memory.get?, if_neg (by omega), rest]

/-! ### The cheat overlay -/

/-- Of the cheat overlay, a read looks at its own address alone. -/
theorem State.answer_congr_cheats {s : State} {m : Memory} {a : Word} (h : m.get? a.toNat = s.cheats.get? a.toNat) :
    State.answer { s with cheats := m } a = s.answer a := by
  rw [State.answer, h]
  rfl

theorem State.answer_setCheat (s : State) (a : Word) (v : Byte) : (s.setCheat a v).answer a = .byte v := by
  have hget : (s.setCheat a v).cheats.get? a.toNat = some v := s.cheats.get?_insert_same a.toNat v
  rw [State.answer, hget]

/-- The bus's write does not look at the cheat overlay. -/
theorem State.busWrite_setCheat (s : State) (a b : Word) (v w : Byte) :
    (s.setCheat a v).busWrite b w = (s.busWrite b w).map fun u => u.setCheat a v := by
  unfold State.busWrite
  cases route b
  case romFixed | romWindow => simp only [Option.map_map]; rfl
  case extRam =>
    change (match s.mbc.extTarget b.toNat with | .ram off => _ | .fixed _ => _ | .clock _ => _) = _
    cases s.mbc.extTarget b.toNat <;> rfl
  case key1 | svbk =>
    change (if s.cgb = true then _ else _) = _
    split <;> rfl
  case bootLatch => cases w.getLsbD 0 <;> rfl
  all_goals rfl

theorem State.answer_clearCheat {s : State} (a : Word) (hs : s.wf = true) :
    (s.clearCheat a).answer a = s.mapAnswer a := by
  obtain ⟨hstores, -⟩ := (State.wf_iff s).mp hs
  simp only [State.storesWf, Memory.wf, Bool.and_eq_true] at hstores
  obtain ⟨-, hrises, -⟩ := hstores
  exact State.answer_of_uncheated (s := s.clearCheat a) (Memory.get?_erase_same a.toNat hrises)

/-! ### Breakpoints -/

theorem State.setBreakpoint_eq (s : State) (a : Word) :
    s.setBreakpoint a = { s with breakpoints := (s.setBreakpoint a).breakpoints } := by
  unfold State.setBreakpoint
  split <;> rfl

theorem State.mem_setBreakpoint (s : State) (a b : Word) :
    b ∈ (s.setBreakpoint a).breakpoints ↔ b = a ∨ b ∈ s.breakpoints := by
  unfold State.setBreakpoint
  split
  case isTrue h =>
    rw [List.contains_iff_mem] at h
    exact ⟨.inr, fun hb => hb.elim (fun e => e ▸ h) id⟩
  case isFalse => exact List.mem_cons

theorem State.mem_clearBreakpoint (s : State) (a b : Word) :
    b ∈ (s.clearBreakpoint a).breakpoints ↔ b ≠ a ∧ b ∈ s.breakpoints := by
  simp [State.clearBreakpoint, and_comm]

theorem State.toggleBreakpoint_of_mem {s : State} {a : Word} (h : a ∈ s.breakpoints) :
    s.toggleBreakpoint a = s.clearBreakpoint a :=
  if_pos (List.contains_iff_mem.mpr h)

theorem State.toggleBreakpoint_of_notMem {s : State} {a : Word} (h : a ∉ s.breakpoints) :
    s.toggleBreakpoint a = s.setBreakpoint a :=
  if_neg (mt List.contains_iff_mem.mp h)

theorem State.toggleBreakpoint_eq (s : State) (a : Word) :
    s.toggleBreakpoint a = { s with breakpoints := (s.toggleBreakpoint a).breakpoints } := by
  unfold State.toggleBreakpoint
  split
  · rfl
  · exact s.setBreakpoint_eq a

theorem State.mem_toggleBreakpoint (s : State) (a b : Word) :
    b ∈ (s.toggleBreakpoint a).breakpoints ↔ (b = a ∧ a ∉ s.breakpoints) ∨ (b ≠ a ∧ b ∈ s.breakpoints) := by
  by_cases h : a ∈ s.breakpoints
  · rw [State.toggleBreakpoint_of_mem h, State.mem_clearBreakpoint]
    tauto
  · rw [State.toggleBreakpoint_of_notMem h, State.mem_setBreakpoint]
    have hne (hb : b ∈ s.breakpoints) : b ≠ a := fun e => h (e ▸ hb)
    tauto

/-! ### The invariant -/

/-- The bank counts of the header's table (20_memory.md R108). -/
theorem romBanksOf_bound : ∀ v : Byte, romBanksOf v = 0 ∨ (2 ≤ romBanksOf v ∧ romBanksOf v ≤ 512) := by decide

/-- Reset puts every bounded field but the bank count within its bounds (R500). -/
theorem State.fieldsWf_resetOp {s : State} (h : s.mbc.romBanks = 0 ∨ (2 ≤ s.mbc.romBanks ∧ s.mbc.romBanks ≤ 512)) :
    s.resetOp.fieldsWf = true := by
  have hbank : s.mbc.romBanks = 0 ∨ (2 ≤ s.mbc.romBanks ∧ s.mbc.romBanks ≤ 512 ∧ 1 < s.mbc.romBanks) := by omega
  have hwram : (1#3 : BitVec 3) ≠ 0#3 := by decide
  simp only [State.fieldsWf, Bool.and_eq_true, decide_eq_true_eq]
  exact ⟨⟨⟨⟨hwram, Nat.zero_lt_succ _⟩, Nat.zero_lt_succ _⟩, Bool.not_or_self _⟩, hbank⟩

theorem State.wf_insertCartridge {s t : State} {img : List Byte} {saved : Option (List Byte)} (hs : s.wf = true)
    (ht : s.insertCartridge img saved = some t) : t.wf = true := by
  obtain ⟨hstores, -⟩ := (State.wf_iff s).mp hs
  have hstores' := State.storesWf_insertCartridge hstores ht
  have hfields : t.fieldsWf = true := by
    rcases Nat.lt_or_ge Config.romCapacity img.length with hlong | hfits
    · rw [State.insertCartridge, if_neg (Nat.not_le.mpr hlong)] at ht
      cases ht
    · obtain ⟨eram, heq, -, -⟩ := s.insertCartridge_of_le saved hfits
      obtain rfl : { s.withCartridge img with eram := eram } = t := Option.some.inj (heq.symm.trans ht)
      exact State.fieldsWf_resetOp (romBanksOf_bound (imageByte img 0x148))
  rw [State.wf, hstores', hfields, Bool.and_self]

/-- The invariant does not look at the breakpoints. -/
theorem State.wf_breakpoints (s : State) (bs : List Word) : State.wf { s with breakpoints := bs } = s.wf := rfl

end Sys2Proof.Machine

namespace Sys2Proof.Proofs

open Sys2Proof.Machine Sys2Proof.Claims

/-- Settles O53: ROM after removal is 0x8000 bytes of 0xFF and, from there on, what it was. -/
theorem removeAndFlush : Obligations.RemoveAndFlush := by
  refine ⟨fun s => ⟨rfl, rfl, rfl, fun off h => ?_, fun off h => ?_, rfl⟩, fun s h => if_pos h, fun s h => if_neg h⟩
  · have hget : s.removeCartridge.rom.get? off = some 0xFF#8 := by
      rw [State.removeCartridge, Memory.get?_append, Memory.get?_ofBytes_replicate (by decide) h, Option.some_or]
    rw [State.readCell, Cell.store, hget, Option.getD_some]
  · have hget : s.removeCartridge.rom.get? off = s.rom.get? off := by
      rw [State.removeCartridge, Memory.get?_append,
        Memory.get?_ofBytes_of_length_le (by rw [List.length_replicate, Nat.zero_add]; exact h), Option.none_or,
        Memory.get?_filter (p := fun k => decide (0x8000 ≤ k)) _ (decide_eq_true h)]
    rw [State.readCell, Cell.store, hget]
    rfl

/-- Settles O54: the breakpoint operations as sets; a read looks in the overlay first, and a write does not look
there. -/
theorem debugSets : Obligations.DebugSets := by
  intro s a b v w
  refine ⟨⟨s.setBreakpoint_eq a, s.mem_setBreakpoint a b⟩, ⟨rfl, s.mem_clearBreakpoint a b⟩,
    ⟨s.toggleBreakpoint_eq a, s.mem_toggleBreakpoint a b⟩, s.answer_setCheat a v, fun h => ?_,
    s.busWrite_setCheat a b v w, fun hs => State.answer_clearCheat a hs, fun h => ?_⟩
  · exact State.answer_congr_cheats (s.cheats.get?_write_other none v (mt BitVec.eq_of_toNat_eq h))
  · exact State.answer_congr_cheats (s.cheats.get?_erase_other (mt BitVec.eq_of_toNat_eq h))

/-- Settles O57: the stores operation by operation in Laws/, and the bounds of the fields that each operation writes. -/
theorem hostOpsKeepWf : Obligations.HostOpsKeepWf := by
  intro s a v img saved hs
  obtain ⟨hstores, hbank, hdiv, htima, hboot, hrom⟩ := (State.wf_iff s).mp hs
  have hcount : s.mbc.romBanks = 0 ∨ (2 ≤ s.mbc.romBanks ∧ s.mbc.romBanks ≤ 512) := by omega
  have hone : s.mbc.romBanks = 0 ∨ (2 ≤ s.mbc.romBanks ∧ s.mbc.romBanks ≤ 512 ∧ 1 < s.mbc.romBanks) := by omega
  refine ⟨?_, fun t ht => State.wf_insertCartridge hs ht, ?_, ?_, ?_, hs, ?_, ?_, ?_⟩
  · rw [State.wf, State.storesWf_resetOp hstores, State.fieldsWf_resetOp hcount, Bool.and_self]
  · exact (State.wf_iff _).mpr ⟨State.storesWf_removeCartridge hstores, hbank, hdiv, htima, hboot, hone⟩
  · unfold State.flushSram
    split <;> exact hs
  · rw [s.setBreakpoint_eq a, State.wf_breakpoints, hs]
  · rw [s.toggleBreakpoint_eq a, State.wf_breakpoints, hs]
  · exact (State.wf_iff _).mpr ⟨State.storesWf_setCheat a v hstores, hbank, hdiv, htima, hboot, hrom⟩
  · exact (State.wf_iff _).mpr ⟨State.storesWf_clearCheat a hstores, hbank, hdiv, htima, hboot, hrom⟩

end Sys2Proof.Proofs

/-! PROOFS. The step around an instruction (60_exceptions.md R400, R430, R450): the fetch byte by byte (30_encoding.md
R143), the phases after it, and the steps that execute nothing. -/

namespace Sys2Proof.Machine

@[simp] theorem State.takeArrivals_fault (s : State) : s.takeArrivals.fault = s.fault := by
  rw [s.takeArrivals_eq]

/-! ### The fetch -/

theorem State.memRead_of_answer {s : State} {a : Word} {v : Byte} (h : s.answer a = .byte v) :
    s.memRead a = (v, s.spend 4) := by
  rw [State.memRead, State.peek_of_answer h, State.afterRead_of_answer h]

theorem State.fetch_of_lengthOf_two {s : State} (h : lengthOf (s.memRead s.regs.pc).1 = 2) :
    let op := s.memRead s.regs.pc
    let b1 := op.2.memRead (s.regs.pc + 1#16)
    s.fetch = (decodeOp op.1 b1.1 0#8, b1.2) := by
  simp only [State.fetch, h, State.fetchBytes]
  rfl

theorem State.fetch_of_lengthOf_three {s : State} (h : lengthOf (s.memRead s.regs.pc).1 = 3) :
    let op := s.memRead s.regs.pc
    let b1 := op.2.memRead (s.regs.pc + 1#16)
    let b2 := b1.2.memRead (s.regs.pc + 2#16)
    s.fetch = (decodeOp op.1 b1.1 b2.1, b2.2) := by
  simp only [State.fetch, h, State.fetchBytes]
  rfl

/-- The bytes of one instruction and no more, by their number. -/
theorem decode_eq_ok_nil {bytes : List Byte} {i : Instr} (h : decode bytes = .ok (i, [])) :
    (∃ op, lengthOf op = 1 ∧ bytes = [op] ∧ i = decodeOp op 0#8 0#8)
    ∨ (∃ op b1, lengthOf op = 2 ∧ bytes = [op, b1] ∧ i = decodeOp op b1 0#8)
    ∨ ∃ op b1 b2, lengthOf op = 3 ∧ bytes = [op, b1, b2] ∧ i = decodeOp op b1 b2 := by
  obtain ⟨op, b1, b2, -, hbytes⟩ := decode_eq_ok h
  rw [List.append_nil, instrBytes] at hbytes
  obtain hlen | hlen | hlen := lengthOf_cases op <;> rw [hlen] at hbytes <;> subst hbytes <;>
    simp only [List.take, decode, hlen] at h <;> cases h
  · exact .inl ⟨op, hlen, rfl, rfl⟩
  · exact .inr (.inl ⟨op, b1, hlen, rfl, rfl⟩)
  · exact .inr (.inr ⟨op, b1, b2, hlen, rfl, rfl⟩)

/-- Where the bytes of an instruction are read at PC, that instruction is fetched, 4 cycles a byte. -/
theorem State.fetch_of_answers {s : State} {i : Instr} {bytes : List Byte} (hdecode : decode bytes = .ok (i, []))
    (hbytes : ∀ (k : Nat) (h : k < bytes.length), s.answer (s.regs.pc + BitVec.ofNat 16 k) = .byte bytes[k]) :
    s.fetch = (i, s.spend (4 * bytes.length)) := by
  obtain ⟨op, hlen, rfl, rfl⟩ | ⟨op, b1, hlen, rfl, rfl⟩ | ⟨op, b1, b2, hlen, rfl, rfl⟩ := decode_eq_ok_nil hdecode
  case inl =>
    have h0 : s.answer s.regs.pc = .byte op := by simpa using hbytes 0 (by simp)
    rw [State.fetch_of_lengthOf_one (by rw [State.peek_of_answer h0, hlen]), State.peek_of_answer h0,
      State.afterRead_of_answer h0]
    rfl
  case inr.inl =>
    have h0 : s.memRead s.regs.pc = (op, s.spend 4) := State.memRead_of_answer (by simpa using hbytes 0 (by simp))
    have h1 : (s.spend 4).memRead (s.regs.pc + 1#16) = (b1, (s.spend 4).spend 4) :=
      State.memRead_of_answer (hbytes 1 (by simp))
    have hfetch := State.fetch_of_lengthOf_two (s := s) (by rw [h0, hlen])
    simp only [h0, h1] at hfetch
    rw [hfetch, State.spend_spend]
    rfl
  case inr.inr =>
    have h0 : s.memRead s.regs.pc = (op, s.spend 4) := State.memRead_of_answer (by simpa using hbytes 0 (by simp))
    have h1 : (s.spend 4).memRead (s.regs.pc + 1#16) = (b1, (s.spend 4).spend 4) :=
      State.memRead_of_answer (hbytes 1 (by simp))
    have h2 : ((s.spend 4).spend 4).memRead (s.regs.pc + 2#16) = (b2, ((s.spend 4).spend 4).spend 4) :=
      State.memRead_of_answer (hbytes 2 (by simp))
    have hfetch := State.fetch_of_lengthOf_three (s := s) (by rw [h0, hlen])
    simp only [h0, h1, h2] at hfetch
    rw [hfetch, State.spend_spend, State.spend_spend]
    rfl

/-! ### The phases after an instruction -/

theorem State.afterInstr_of_fault {s : State} (h : s.fault ≠ none) : s.afterInstr = s :=
  if_pos (Option.isSome_iff_ne_none.mpr h)

theorem State.afterInstr_of_no_fault {s : State} (h : s.fault = none) : s.afterInstr = s.countInstr.finishStep :=
  if_neg (by simp [h])

end Sys2Proof.Machine

namespace Sys2Proof.Proofs

open Sys2Proof.Machine Sys2Proof.Claims

/-- Settles O6: the fetch of an instruction's bytes decodes to the instruction, since decoding undoes encoding. -/
theorem stepRunsDecoded : Obligations.StepRunsDecoded := by
  refine ⟨fun s₀ t i hwhole hfetch hbytes hexec => ?_, fun _ _ hfetch hexec => step_of_canFetch hfetch hexec,
    fun s => ⟨State.fetch_of_lengthOf_one, State.fetch_of_lengthOf_two, State.fetch_of_lengthOf_three⟩, fun _ => rfl,
    fun _ => State.afterInstr_of_fault, fun _ => State.afterInstr_of_no_fault, fun _ => State.wake_of_request,
    fun _ => State.wake_of_idle⟩
  have hdecode : decode (encode i) = .ok (i, []) := by simpa using decode_encode [] hwhole
  have hinstr : s₀.begun.fetch = (i, s₀.begun.fetched i) :=
    State.fetch_of_answers (s := s₀.begun) hdecode hbytes
  exact step_of_canFetch hfetch (by rw [hinstr]; exact hexec)

/-- Settles O7: attempts change neither the record nor the breakpoints. -/
theorem stepsThatExecuteNothing : Obligations.StepsThatExecuteNothing := by
  refine ⟨fun s f hfault => ?_, fun s₀ hfault hbreak => ?_⟩
  · rw [step, stepPhases, State.takeArrivals_fault, hfault]
  · have hbegun : s₀.begun.atBreakpoint = true := List.contains_iff_mem.mpr hbreak
    have hfault' : s₀.fault = none := s₀.takeArrivals_fault.symm.trans hfault
    exact step_of_cases hfault' (.inl ⟨hbegun, rfl⟩)

end Sys2Proof.Proofs
